-- ==== Sys2Proof/Word.lean ====
section
/-! DEFINITION. The widths the spec names (00_scope.md R8, R17) and the transaction as it stands on the CORE's two
ports (30_encoding.md R65). -/

namespace Sys2Proof

/-- One byte of a Raw Capture Buffer (10_state.md R23). -/
abbrev Byte := BitVec 8

/-- One 32-bit word of the register space (20_memory.md R51, R54). -/
abbrev Word := BitVec 32

/-- A 9-bit word address of the register space (20_memory.md R51). -/
abbrev Addr := BitVec 9

/-- An LFSR state, a tap mask or a seed: 17 bits (00_scope.md R8, LFSR_W). -/
abbrev Lfsr := BitVec 17

/-- A sweep (receiver) index, 0 or 1 (00_scope.md R8, N_RX). -/
abbrev Rx := Fin 2

/-- A catalogued polynomial, 0 to 3 (00_scope.md R8, N_POLY). -/
abbrev PolyIx := Fin 4

/-- A polynomial the matcher compares, 0 or 1 (00_scope.md R8, N_ACTIVE). -/
abbrev ActiveIx := Fin 2

/-- A Raw Capture Buffer: 128 bytes, byte 0 first (00_scope.md R8, RAW_BYTES; 10_state.md R23). -/
abbrev RawBuffer := Vector Byte 128

/-- A transaction as a port carries it (30_encoding.md R65).  `bus` is the register bus: the 10-bit header is the
number W, A with W in bit 9 and A in bits 8:0, and `data` is the 32 data lines, which carry V when W is 1 and are
not looked at when W is 0 (log entry 3).  `capture` is the capture port: R in bit 1024 and, below it, the raw bits
of 20_memory.md R58, raw bit 0 in bit 1023. -/
inductive Transaction where
  | bus (header : BitVec 10) (data : Word)
  | capture (message : BitVec 1025)
  deriving DecidableEq, Repr

end Sys2Proof
end

