-- ==== Sys2Proof/Syntax.lean ====
section
/-! DEFINITION. The instructions: one constructor per row of spec/opcode_table.json (30_encoding.md R65, R68). -/

namespace Sys2Proof

/-- The fifteen commands of 30_encoding.md R68 and the three transactions of R65, with their operand fields decoded
(R67): `r` selects a sweep, `p` a polynomial, `n` is the step count. -/
inductive Instr where
  /-- START (45_session_orchestrator.md R122). -/
  | start
  /-- STOP (45_session_orchestrator.md R123). -/
  | stop
  /-- RESET (45_session_orchestrator.md R124). -/
  | reset
  /-- TRY_ADVANCE (45_session_orchestrator.md R118). -/
  | tryAdvance
  /-- PROCESS_LOCATION (45_session_orchestrator.md R121). -/
  | processLocation
  /-- CLASSIFY r (41_bit_classifier.md R82). -/
  | classify (r : Rx)
  /-- RESOLVE r (42_chip_resolver.md R91). -/
  | resolve (r : Rx)
  /-- MATCH r (43_polynomial_matcher.md R104). -/
  | matchSweep (r : Rx)
  /-- LOCATE r (44_reverse_counter.md R114). -/
  | locate (r : Rx)
  /-- POPCOUNT (43_polynomial_matcher.md R101). -/
  | popcount
  /-- LFSR_FWD p (43_polynomial_matcher.md R102). -/
  | lfsrFwd (p : PolyIx)
  /-- LFSR_BACK p (44_reverse_counter.md R112). -/
  | lfsrBack (p : PolyIx)
  /-- POLY_CHECK p, n (43_polynomial_matcher.md R103). -/
  | polyCheck (p : PolyIx) (n : Fin 64)
  /-- REVERSE_COUNT p (44_reverse_counter.md R113). -/
  | reverseCount (p : PolyIx)
  /-- MATCH_ARG (43_polynomial_matcher.md R105). -/
  | matchArg
  /-- BUS-RD: MemRead(A, 4) (20_memory.md R55). -/
  | busRd (a : Addr)
  /-- BUS-WR: MemWrite(A, 4, V) (20_memory.md R56). -/
  | busWr (a : Addr) (v : Word)
  /-- CAP: CAP(R, D), D[0] first (20_memory.md R57). -/
  | cap (r : Rx) (d : RawBuffer)
  deriving DecidableEq, Repr

end Sys2Proof
end

