-- ==== Sys2Proof/WellFormed.lean ====
section
/-! DEFINITION. Which instruction terms have a spelling of their own.  Field widths are in the types of
`Sys2Proof.Instr`; what is left to check is that a bus write to CMD is not a command written out as data. -/

namespace Sys2Proof

/-- The (match, mask) pairs of 30_encoding.md R69, in the table's order. -/
def commandForms : List (Word × Word) :=
  [(0x00000001#32, 0xFFFFFFFF#32), (0x00000002#32, 0xFFFFFFFF#32), (0x00000003#32, 0xFFFFFFFF#32),
   (0x00000004#32, 0xFFFFFFFF#32), (0x00000005#32, 0xFFFFFFFF#32), (0x00000010#32, 0xFFFFFEFF#32),
   (0x00000011#32, 0xFFFFFEFF#32), (0x00000012#32, 0xFFFFFEFF#32), (0x00000013#32, 0xFFFFFEFF#32),
   (0x00000020#32, 0xFFFFFFFF#32), (0x00000021#32, 0xFFFFF9FF#32), (0x00000022#32, 0xFFFFF9FF#32),
   (0x00000023#32, 0xFFFE01FF#32), (0x00000024#32, 0xFFFFF9FF#32), (0x00000025#32, 0xFFFFFFFF#32)]

/-- "A word w spells mnemonic m exactly when (w AND mask(m)) = match(m)" (30_encoding.md R69). -/
def spellsForm (w : Word) (form : Word × Word) : Bool := (w &&& form.2) == form.1

/-- Some mnemonic of 30_encoding.md R69 is spelled by `w`. -/
def isCommandWord (w : Word) : Bool := commandForms.any (spellsForm w)

/-- A term is well formed unless it is a write of a legal command word to CMD (address 0x000): that transaction is
the command itself, and has the command's constructor (30_encoding.md R70; log entry 4). -/
def Instr.wellFormed : Instr → Bool
  | .start => true
  | .stop => true
  | .reset => true
  | .tryAdvance => true
  | .processLocation => true
  | .classify _ => true
  | .resolve _ => true
  | .matchSweep _ => true
  | .locate _ => true
  | .popcount => true
  | .lfsrFwd _ => true
  | .lfsrBack _ => true
  | .polyCheck _ _ => true
  | .reverseCount _ => true
  | .matchArg => true
  | .busRd _ => true
  | .busWr a v => !(a == 0x000#9 && isCommandWord v)
  | .cap _ _ => true

end Sys2Proof
end

