-- ==== Sys2Proof/Decode.lean ====
section
/-! DEFINITION. From the bits of a transaction to the instruction (30_encoding.md R65 to R72), and back. -/

namespace Sys2Proof

/-- Why a word written to CMD is no command (30_encoding.md R70, R71). -/
inductive DecodeError where
  /-- The OP field is one of the reserved opcodes of R71. -/
  | reservedOpcode (op : BitVec 8)
  /-- The OP is assigned, and a bit of Z or of a field the command does not use is 1. -/
  | nonzeroUnusedField (op : BitVec 8)
  deriving DecidableEq, Repr

/-- OP, bits 7:0 (30_encoding.md R66). -/
def opField (w : Word) : BitVec 8 := w.extractLsb' 0 8

/-- R, bit 8 (30_encoding.md R66). -/
def rField (w : Word) : BitVec 1 := w.extractLsb' 8 1

/-- P, bits 10:9 (30_encoding.md R66). -/
def pField (w : Word) : BitVec 2 := w.extractLsb' 9 2

/-- N, bits 16:11 (30_encoding.md R66). -/
def nField (w : Word) : BitVec 6 := w.extractLsb' 11 6

/-- Z, bits 31:17, reserved (30_encoding.md R66). -/
def zField (w : Word) : BitVec 15 := w.extractLsb' 17 15

/-- The sweep operand, zext(C[8]) (30_encoding.md R67). -/
def sweepOperand (w : Word) : Rx := (rField w).toFin

/-- The polynomial operand, zext(C[10:9]) (30_encoding.md R67). -/
def polyOperand (w : Word) : PolyIx := (pField w).toFin

/-- The step count operand, zext(C[16:11]), never scaled or sign-extended (30_encoding.md R67). -/
def stepsOperand (w : Word) : Fin 64 := (nField w).toFin

/-- `i` when every unused field of the word is 0, else the refusal by name (30_encoding.md R70). -/
def ifUnusedZero (unusedZero : Bool) (w : Word) (i : Instr) : Except DecodeError Instr :=
  if unusedZero then .ok i else .error (.nonzeroUnusedField (opField w))

/-- A command that uses no field: R, P, N and Z must be 0 (30_encoding.md R68). -/
def formBare (w : Word) (i : Instr) : Except DecodeError Instr :=
  ifUnusedZero (rField w == 0 && pField w == 0 && nField w == 0 && zField w == 0) w i

/-- A command that uses R alone: P, N and Z must be 0 (30_encoding.md R68). -/
def formR (w : Word) (i : Instr) : Except DecodeError Instr :=
  ifUnusedZero (pField w == 0 && nField w == 0 && zField w == 0) w i

/-- A command that uses P alone: R, N and Z must be 0 (30_encoding.md R68). -/
def formP (w : Word) (i : Instr) : Except DecodeError Instr :=
  ifUnusedZero (rField w == 0 && nField w == 0 && zField w == 0) w i

/-- A command that uses P and N: R and Z must be 0 (30_encoding.md R68). -/
def formPN (w : Word) (i : Instr) : Except DecodeError Instr :=
  ifUnusedZero (rField w == 0 && zField w == 0) w i

/-- The command a word written to CMD spells, or why it spells none (30_encoding.md R68, R70, R71). -/
def decodeCommand (w : Word) : Except DecodeError Instr :=
  if opField w = 0x01#8 then formBare w .start
  else if opField w = 0x02#8 then formBare w .stop
  else if opField w = 0x03#8 then formBare w .reset
  else if opField w = 0x04#8 then formBare w .tryAdvance
  else if opField w = 0x05#8 then formBare w .processLocation
  else if opField w = 0x10#8 then formR w (.classify (sweepOperand w))
  else if opField w = 0x11#8 then formR w (.resolve (sweepOperand w))
  else if opField w = 0x12#8 then formR w (.matchSweep (sweepOperand w))
  else if opField w = 0x13#8 then formR w (.locate (sweepOperand w))
  else if opField w = 0x20#8 then formBare w .popcount
  else if opField w = 0x21#8 then formP w (.lfsrFwd (polyOperand w))
  else if opField w = 0x22#8 then formP w (.lfsrBack (polyOperand w))
  else if opField w = 0x23#8 then formPN w (.polyCheck (polyOperand w) (stepsOperand w))
  else if opField w = 0x24#8 then formP w (.reverseCount (polyOperand w))
  else if opField w = 0x25#8 then formBare w .matchArg
  else .error (.reservedOpcode (opField w))

/-- What a write of `v` to CMD is: the command `v` spells, or a plain bus write that the machine will refuse
(30_encoding.md R70). -/
def decodeCmdWrite (v : Word) : Instr :=
  match decodeCommand v with
  | .ok i => i
  | .error _ => .busWr 0x000#9 v

/-- W, bit 9 of a bus header (30_encoding.md R65). -/
def headerWrite (h : BitVec 10) : Bool := h.getLsbD 9

/-- A, bits 8:0 of a bus header (30_encoding.md R65). -/
def headerAddr (h : BitVec 10) : Addr := h.extractLsb' 0 9

/-- A bus transaction: W tells a read from a write (30_encoding.md R65, R72). -/
def decodeBus (h : BitVec 10) (v : Word) : Instr :=
  if headerWrite h then
    if headerAddr h = 0x000#9 then decodeCmdWrite v else .busWr (headerAddr h) v
  else .busRd (headerAddr h)

/-- Byte D[i] of a CAP written as one number: D[0] in bits 1023:1016, D[127] in bits 7:0 (30_encoding.md R65;
20_memory.md R58). -/
def captureByte (m : Nat) (i : Nat) : Byte := BitVec.ofNat 8 (m >>> (8 * (127 - i)))

/-- A CAP written as one number: R is bit 1024 and the bytes are below it (30_encoding.md R65). -/
def captureOf (m : Nat) : Instr :=
  .cap (Fin.ofNat 2 (m >>> 1024)) (Vector.ofFn fun i => captureByte m i.val)

/-- The instruction a transaction is: its kind by its port and its W bit (30_encoding.md R72).  Total: a bus or
capture transaction is always some instruction, and a word that spells no command is the refused write of R70. -/
def decode : Transaction → Instr
  | .bus h v => decodeBus h v
  | .capture m => captureOf m.toNat

/-- The bus header of a write to CMD: W = 1, A = 0x000 (30_encoding.md R65). -/
def cmdHeader : BitVec 10 := 0x200#10

/-- A header from W and A (30_encoding.md R65). -/
def busHeader (write : Bool) (a : Addr) : BitVec 10 := BitVec.ofBool write ++ a

/-- A command word from its OP and its fields, 0 where a field is not used (30_encoding.md R66, R69). -/
def commandWord (op : BitVec 8) (r : BitVec 1) (p : BitVec 2) (n : BitVec 6) : Word :=
  op.setWidth 32 ||| (r.setWidth 32 <<< 8) ||| (p.setWidth 32 <<< 9) ||| (n.setWidth 32 <<< 11)

/-- The bytes of a capture as one number, D[0] most significant (30_encoding.md R65). -/
def captureNumber (d : RawBuffer) : Nat := d.toList.foldl (fun acc b => 256 * acc + b.toNat) 0

/-- A CAP as one number: R above the bytes (30_encoding.md R65). -/
def captureMessage (r : Rx) (d : RawBuffer) : Nat := (r.val <<< 1024) + captureNumber d

/-- The transaction of a command: its word written to CMD. -/
def encodeCommand (op : BitVec 8) (r : Rx) (p : PolyIx) (n : Fin 64) : Transaction :=
  .bus cmdHeader (commandWord op (BitVec.ofFin r) (BitVec.ofFin p) (BitVec.ofFin n))

/-- The transaction that spells an instruction, from the encoding tables of 30_encoding.md R65, R66, R68, R69. -/
def encode : Instr → Transaction
  | .start => encodeCommand 0x01#8 0 0 0
  | .stop => encodeCommand 0x02#8 0 0 0
  | .reset => encodeCommand 0x03#8 0 0 0
  | .tryAdvance => encodeCommand 0x04#8 0 0 0
  | .processLocation => encodeCommand 0x05#8 0 0 0
  | .classify r => encodeCommand 0x10#8 r 0 0
  | .resolve r => encodeCommand 0x11#8 r 0 0
  | .matchSweep r => encodeCommand 0x12#8 r 0 0
  | .locate r => encodeCommand 0x13#8 r 0 0
  | .popcount => encodeCommand 0x20#8 0 0 0
  | .lfsrFwd p => encodeCommand 0x21#8 0 p 0
  | .lfsrBack p => encodeCommand 0x22#8 0 p 0
  | .polyCheck p n => encodeCommand 0x23#8 0 p n
  | .reverseCount p => encodeCommand 0x24#8 0 p 0
  | .matchArg => encodeCommand 0x25#8 0 0 0
  | .busRd a => .bus (busHeader false a) 0
  | .busWr a v => .bus (busHeader true a) v
  | .cap r d => .capture (BitVec.ofNat 1025 (captureMessage r d))

/-- The transaction whose bits are `w`, numbered as spec/opcode_table.json numbers its four formats, told apart by
their length: a BUS-RD header has 10 bits, a command word 32, a BUS-WR 42 and a CAP 1025 (30_encoding.md R65).  A
command word is the V of a write to CMD.  A 10-bit number whose W is 1 is no whole transaction. -/
def transactionOfTableWord (nbits w : Nat) : Option Transaction :=
  if nbits ≤ 16 then
    if headerWrite (BitVec.ofNat 10 w) then none else some (.bus (BitVec.ofNat 10 w) 0)
  else if nbits ≤ 32 then some (.bus cmdHeader (BitVec.ofNat 32 w))
  else if nbits ≤ 48 then some (.bus (BitVec.ofNat 10 (w >>> 32)) (BitVec.ofNat 32 w))
  else some (.capture (BitVec.ofNat 1025 w))

/-- The instruction the decoder reads from a row's bits; none where it refuses (a 32-bit word that spells no
command). -/
def decodeTableWord (nbits w : Nat) : Option Instr :=
  match transactionOfTableWord nbits w with
  | none => none
  | some t =>
    if 16 < nbits ∧ nbits ≤ 32 then (decodeCommand (BitVec.ofNat 32 w)).toOption else some (decode t)

end Sys2Proof
end

