-- ==== Sys2Proof/Config.lean ====
section
/-! DEFINITION. The constants of 00_scope.md R8 to R13, and the three parameters the spec leaves open (R14 to R16)
as constants without a body. -/

namespace Sys2Proof.Config

/-- Raw bits per buffer, RAW_BITS (00_scope.md R8). -/
abbrev rawBits : Nat := 1024

/-- Capacity of the symbol array, SYM_CAP (00_scope.md R8). -/
abbrev symCap : Nat := 128

/-- Width of the chip sequence, CHIP_BITS (00_scope.md R8). -/
abbrev chipBits : Nat := 64

/-- The shortest ZERO run, ZERO_MIN (00_scope.md R9). -/
abbrev zeroMin : Nat := 5

/-- The longest ONE run, ONE_MAX (00_scope.md R9). -/
abbrev oneMax : Nat := 3

/-- The initial comparison window, WIN_INIT (00_scope.md R10). -/
abbrev winInit : Nat := 47

/-- The smallest window that is tried, WIN_MIN (00_scope.md R10). -/
abbrev winMin : Nat := 10

/-- The largest starting offset, OFF_MAX (00_scope.md R10). -/
abbrev offMax : Nat := 8

/-- The initial error threshold, THR_INIT (00_scope.md R10). -/
abbrev thrInit : Nat := 4

/-- The threshold floor, THR_FLOOR (00_scope.md R10). -/
abbrev thrFloor : Nat := 1

/-- The sentinel "no polynomial", POLY_NONE (00_scope.md R11). -/
abbrev polyNone : BitVec 8 := 0xFF#8

/-- The sentinel "no location", LOC_NONE (00_scope.md R11). -/
abbrev locNone : Word := 0xFFFFFFFF#32

/-- The reference state REF (00_scope.md R12). -/
abbrev ref : Lfsr := 0x00001#17

/-- Backward steps between consecutive landmarks, LM_SPACING (00_scope.md R13). -/
abbrev lmSpacing : Nat := 8192

/-- The default of REV_MAX_ITER (00_scope.md R16).  The model takes the parameter as open (`revMaxIter`): nothing
but a test rests on this number. -/
abbrev revMaxIterDefault : Nat := 131072

/-- The tap masks TAPS[p]: an open parameter, no value in the spec (00_scope.md R14; 93_implementation_defined.md
P1; log entry 1). -/
opaque tap : PolyIx → Lfsr

/-- The landmark states LANDMARK[p][k]: an open parameter, no value in the spec (00_scope.md R15;
93_implementation_defined.md P2; log entry 1). -/
opaque landmark : PolyIx → Fin 16 → Lfsr

/-- What REV_MAX_ITER exceeds 1 by: open (log entry 1). -/
opaque revMaxIterLessOne : Nat

/-- REV_MAX_ITER: an open parameter, 1 or more (00_scope.md R16; 93_implementation_defined.md P3; log entry 1). -/
def revMaxIter : Nat := revMaxIterLessOne + 1

end Sys2Proof.Config
end

