-- ==== Sys2Proof/Machine/State.lean ====
section
/-! DEFINITION. The state of the CORE: every register of 10_state.md, the read-only tables and the parameter of the
build, and the model's own two fields for the host's and the capture collaborator's side of the ports. -/

namespace Sys2Proof.Machine

/-- STATE, 2 bits: IDLE = 0, RUNNING = 1, RAW_DATA_READY = 2, LOCATION_READY = 3 (10_state.md R22). -/
inductive Session where
  | idle
  | running
  | rawDataReady
  | locationReady
  deriving DecidableEq, Repr

/-- A ternary symbol, 2 bits: ZERO = 0, ONE = 1, AMB = 2; code 3 is never written (10_state.md R27;
93_implementation_defined.md N1). -/
inductive Ternary where
  | zero
  | one
  | amb
  deriving DecidableEq, Repr

/-- ERR, 2 bits: NONE = 0, OVERFLOW = 1, MATCH_FAIL = 2, LOC_TIMEOUT = 3 (10_state.md R42). -/
inductive ErrCode where
  | none
  | overflow
  | matchFail
  | locTimeout
  deriving DecidableEq, Repr

/-- LEAF, 2 bits: NONE = 0, OVERFLOW = 1, NOT_FOUND = 2, TIMEOUT = 3 (10_state.md R43). -/
inductive LeafCode where
  | none
  | overflow
  | notFound
  | timeout
  deriving DecidableEq, Repr

/-- The per-sweep state, one for each receiver (10_state.md R23 to R38). -/
structure Sweep where
  /-- RAW[r][0..127] (R23). -/
  raw : RawBuffer
  /-- FULL[r] (R24). -/
  full : Bool
  /-- NSYM[r], 8 bits (R25). -/
  nsym : BitVec 8
  /-- RUNLEN[r][0..127], 11 bits each (R26). -/
  runlen : Vector (BitVec 11) 128
  /-- SYM[r][0..127], 2 bits each (R27). -/
  sym : Vector Ternary 128
  /-- OVF[r] (R28). -/
  ovf : Bool
  /-- EXCL[r] (R29). -/
  excl : Bool
  /-- RSYM[r][0..127], 1 bit each (R30). -/
  rsym : Vector Bool 128
  /-- SKIP0[r] (R31). -/
  skip0 : Bool
  /-- CHIPS[r], 64 bits; bit 63 is the first packed symbol (R32). -/
  chips : BitVec 64
  /-- POLY[r], read as 8 bits: `none` is POLY_NONE = 0xFF; only 0, 1 and POLY_NONE are legal (R33; log entry 5). -/
  poly : Option ActiveIx
  /-- OFFSET[r], 8 bits (R34). -/
  offset : BitVec 8
  /-- WINDOW[r], 8 bits (R35). -/
  window : BitVec 8
  /-- THR[r], 8 bits (R36). -/
  thr : BitVec 8
  /-- DIST0[r], 8 bits (R37). -/
  dist0 : BitVec 8
  /-- DIST1[r], 8 bits (R37). -/
  dist1 : BitVec 8
  /-- LOC[r], 32 bits (R38). -/
  loc : Word
  deriving DecidableEq, Repr

/-- One entry of the Location Pair: PAIR_POLY[k], PAIR_OFF[k], PAIR_LOC[k] (10_state.md R39). -/
structure SweepResult where
  /-- PAIR_POLY[k], read as 8 bits: `none` is POLY_NONE (R39; log entry 5). -/
  poly : Option ActiveIx
  /-- PAIR_OFF[k], 8 bits. -/
  off : BitVec 8
  /-- PAIR_LOC[k], 32 bits. -/
  loc : Word
  deriving DecidableEq, Repr

/-- What is fixed when the CORE is built: the read-only tables (10_state.md R47, R48) and the reverse counter's
bound (00_scope.md R16).  No transaction writes any of it (log entry 1). -/
structure Rom where
  /-- TAPS[p], 17 bits each (R47). -/
  taps : Vector Lfsr 4
  /-- LANDMARK[p][k], 17 bits each (R48). -/
  landmark : Vector (Vector Lfsr 16) 4
  /-- REV_MAX_ITER (R16). -/
  revMaxIter : Nat
  deriving DecidableEq, Repr

/-- The machine: every register of 10_state.md, then `pending` and `replies`, the model's own. -/
structure State where
  /-- STATE (10_state.md R22). -/
  session : Session
  /-- The registers of sweep 0. -/
  sweep0 : Sweep
  /-- The registers of sweep 1. -/
  sweep1 : Sweep
  /-- PAIR index 0 (R39). -/
  pair0 : SweepResult
  /-- PAIR index 1 (R39). -/
  pair1 : SweepResult
  /-- SWAPPED (R40). -/
  swapped : Bool
  /-- ERR (R42). -/
  err : ErrCode
  /-- ERR_SWEEP, 1 bit: a sweep index (R42). -/
  errSweep : Rx
  /-- LEAF (R43). -/
  leaf : LeafCode
  /-- ILLEGAL, sticky (R44). -/
  illegal : Bool
  /-- BUSERR, sticky (R44). -/
  busErr : Bool
  /-- CAPREJ, sticky (R44). -/
  capRej : Bool
  /-- ARG, 64 bits (R45). -/
  arg : BitVec 64
  /-- RES, 64 bits (R46). -/
  res : BitVec 64
  /-- TAPS, LANDMARK and REV_MAX_ITER: constants of the build (R47, R48; 00_scope.md R16). -/
  rom : Rom
  /-- The model's own: the transactions the two agents still present, in the one total order of 20_memory.md R59,
  the next one first (log entry 2). -/
  pending : List Transaction
  /-- The model's own: the words the host's reads have returned, oldest first (20_memory.md R55; log entry 2). -/
  replies : List Word
  deriving DecidableEq, Repr

/-- Why the machine stops without a next state. -/
inductive Fault where
  /-- Raised by PROCESS_LOCATION alone, in RAW_DATA_READY with POLY[r] = POLY_NONE for a sweep.  The spec gives
  reverse_count no meaning there and derives that it never happens (45_session_orchestrator.md R119, R125 I1), so no
  run from reset reaches it.  Safe: the machine stops where the spec says nothing (log entry 6). -/
  | noPolynomialToLocate
  deriving DecidableEq, Repr

/-- Why an instruction is given no meaning. -/
inductive Refusal where
  /-- Raised by an arm of `exec` whose instruction has no meaning yet; no arm of this model does.  Safe. -/
  | notModelled (mnemonic : String)
  deriving DecidableEq, Repr

/-- The per-sweep registers at their reset values (10_state.md R50). -/
def Sweep.reset : Sweep where
  raw := Vector.replicate 128 0x00#8
  full := false
  nsym := 0
  runlen := Vector.replicate 128 0
  sym := Vector.replicate 128 .zero
  ovf := false
  excl := false
  rsym := Vector.replicate 128 false
  skip0 := false
  chips := 0
  poly := none
  offset := 0
  window := 0
  thr := 0
  dist0 := 0
  dist1 := 0
  loc := Config.locNone

/-- A pair entry at its reset value (10_state.md R39, R50). -/
def SweepResult.reset : SweepResult where
  poly := none
  off := 0
  loc := Config.locNone

/-- The build's constants, all open (00_scope.md R14 to R16; log entry 1). -/
def Rom.build : Rom where
  taps := Vector.ofFn Config.tap
  landmark := Vector.ofFn fun p => Vector.ofFn (Config.landmark p)
  revMaxIter := Config.revMaxIter

/-- Every register at its reset value over the constants `rom`, with nothing presented on the ports
(10_state.md R50; 70_reset_and_hazards.md R141). -/
def State.resetWith (rom : Rom) : State where
  session := .idle
  sweep0 := Sweep.reset
  sweep1 := Sweep.reset
  pair0 := SweepResult.reset
  pair1 := SweepResult.reset
  swapped := false
  err := .none
  errSweep := 0
  leaf := .none
  illegal := false
  busErr := false
  capRej := false
  arg := 0
  res := 0
  rom := rom
  pending := []
  replies := []

/-- The machine right after hardware reset (10_state.md R50; 70_reset_and_hazards.md R141). -/
def State.reset : State := State.resetWith Rom.build

end Sys2Proof.Machine
end

