-- ==== Sys2Proof/Machine/Operands.lean ====
section
/-! DEFINITION. Bits, bytes, arrays and operands: the primitives of 00_scope.md R17 to R19, the raw bit order of
20_memory.md R58, and the operand forms of 30_encoding.md R67. -/

namespace Sys2Proof.Machine

/-- popcount(v), the number of 1 bits of `v` (00_scope.md R19; 43_polynomial_matcher.md R92). -/
def popcount {w : Nat} (v : BitVec w) : Nat := (List.range w).countP v.getLsbD

/-- parity(v) = popcount(v) mod 2 (00_scope.md R19). -/
def parity {w : Nat} (v : BitVec w) : Bool := popcount v % 2 == 1

/-- mask(n) = 2^n - 1 as a 64-bit value (00_scope.md R17). -/
def mask64 (n : Nat) : BitVec 64 := BitVec.ofNat 64 (2 ^ n - 1)

/-- The bits of one raw byte in stream order, bit 7 first (20_memory.md R58). -/
def byteBits (b : Byte) : List Bool := (List.range 8).map fun k => b.getLsbD (7 - k)

/-- The 1024 raw bits b[0..1023] of a buffer, b[i] = RAW[i div 8][7 - (i mod 8)] (20_memory.md R58). -/
def rawBitList (d : RawBuffer) : List Bool := d.toList.flatMap byteBits

/-- A leaf command's seed or state operand, ARG[16:0]; ARG[63:17] is ignored (30_encoding.md R67). -/
def seedOperand (arg : BitVec 64) : Lfsr := arg.extractLsb' 0 17

/-- A leaf command's chip sequence operand, all of ARG[63:0] (30_encoding.md R67). -/
def chipsOperand (arg : BitVec 64) : BitVec 64 := arg

/-- A 64-bit register with its low word replaced (20_memory.md R54, R56). -/
def withLow (x : BitVec 64) (v : Word) : BitVec 64 := x.extractLsb' 32 32 ++ v

/-- A 64-bit register with its high word replaced (20_memory.md R54, R56). -/
def withHigh (x : BitVec 64) (v : Word) : BitVec 64 := v ++ x.extractLsb' 0 32

/-- The low word of a 64-bit register, bits 31:0 (20_memory.md R54). -/
def lowWord (x : BitVec 64) : Word := x.extractLsb' 0 32

/-- The high word of a 64-bit register, bits 63:32 (20_memory.md R54). -/
def highWord (x : BitVec 64) : Word := x.extractLsb' 32 32

/-- The word whose field number j, `pitch` bits apart, is `f j`, for j below `count` (the readback words of
20_memory.md R52). -/
def packFields (pitch : Nat) (f : Nat → Word) : (count : Nat) → Word
  | 0 => 0
  | j + 1 => packFields pitch f j ||| (f j <<< (pitch * j))

/-- TAPS[p] (10_state.md R47). -/
def Rom.tap (rom : Rom) (p : PolyIx) : Lfsr := rom.taps[p]

/-- LANDMARK[p][k] (10_state.md R48). -/
def Rom.landmarkAt (rom : Rom) (p : PolyIx) (k : Fin 16) : Lfsr := rom.landmark[p][k]

/-- A compared polynomial as one of the four (43_polynomial_matcher.md R96). -/
def activePoly (i : ActiveIx) : PolyIx := i.castLE (by decide)

end Sys2Proof.Machine
end

