-- ==== Sys2Proof/Machine/Flags.lean ====
section
/-! DEFINITION. The codes of the state and error fields, the STATUS word (10_state.md R49) and the one operation
that records an error condition (00_scope.md R19 `raise`; 60_exceptions.md R126). -/

namespace Sys2Proof.Machine

/-- The 2-bit code of STATE (10_state.md R22). -/
def Session.code : Session → BitVec 2
  | .idle => 0
  | .running => 1
  | .rawDataReady => 2
  | .locationReady => 3

/-- The 2-bit code of a ternary symbol (10_state.md R27). -/
def Ternary.code : Ternary → BitVec 2
  | .zero => 0
  | .one => 1
  | .amb => 2

/-- The 2-bit code of ERR (10_state.md R42). -/
def ErrCode.code : ErrCode → BitVec 2
  | .none => 0
  | .overflow => 1
  | .matchFail => 2
  | .locTimeout => 3

/-- The 2-bit code of LEAF (10_state.md R43). -/
def LeafCode.code : LeafCode → BitVec 2
  | .none => 0
  | .overflow => 1
  | .notFound => 2
  | .timeout => 3

/-- The 8-bit code of a polynomial register, POLY_NONE for none (00_scope.md R11; 10_state.md R33). -/
def polyCode : Option ActiveIx → BitVec 8
  | none => Config.polyNone
  | some i => BitVec.ofNat 8 i.val

/-- PAIR_VALID reads 1 exactly when STATE = LOCATION_READY (10_state.md R49). -/
def pairValid (s : State) : Bool := s.session == .locationReady

/-- The STATUS word (10_state.md R49); bits 31:14 are 0. -/
def statusWord (s : State) : Word :=
  s.session.code.setWidth 32
    ||| ((BitVec.ofBool s.sweep0.full).setWidth 32 <<< 2)
    ||| ((BitVec.ofBool s.sweep1.full).setWidth 32 <<< 3)
    ||| (s.err.code.setWidth 32 <<< 4)
    ||| (BitVec.ofNat 32 s.errSweep.val <<< 6)
    ||| ((BitVec.ofBool s.swapped).setWidth 32 <<< 7)
    ||| (s.leaf.code.setWidth 32 <<< 8)
    ||| ((BitVec.ofBool s.illegal).setWidth 32 <<< 10)
    ||| ((BitVec.ofBool s.busErr).setWidth 32 <<< 11)
    ||| ((BitVec.ofBool s.capRej).setWidth 32 <<< 12)
    ||| ((BitVec.ofBool (pairValid s)).setWidth 32 <<< 13)

/-- What can be recorded in STATUS (60_exceptions.md R126): the three sticky rejections, the outcome of a session
step with the sweep it names, and the outcome of a leaf or diagnostic command. -/
inductive Condition where
  | illegalCommand
  | badBusWrite
  | refusedCapture
  | sessionOutcome (code : ErrCode) (sweep : Rx)
  | leafOutcome (code : LeafCode)
  deriving DecidableEq, Repr

/-- Recording a condition: the CORE's whole error mechanism.  The sticky bits are set, ERR with ERR_SWEEP and LEAF
are overwritten, and nothing else changes: no trap, no saved state, no mode (60_exceptions.md R126, R127, R130). -/
def State.raise (s : State) : Condition → State
  | .illegalCommand => { s with illegal := true }
  | .badBusWrite => { s with busErr := true }
  | .refusedCapture => { s with capRej := true }
  | .sessionOutcome code sweep => { s with err := code, errSweep := sweep }
  | .leafOutcome code => { s with leaf := code }

/-- The outcome of two sweeps' steps: the first failure, sweep 0 before sweep 1, or NONE with sweep 0
(45_session_orchestrator.md R118, R121; 60_exceptions.md R129). -/
def firstFailure (e0 e1 : ErrCode) : ErrCode × Rx :=
  if e0 ≠ .none then (e0, 0)
  else if e1 ≠ .none then (e1, 1)
  else (.none, 0)

end Sys2Proof.Machine
end

