-- ==== Sys2Proof/Machine/Ops.lean ====
section
/-! DEFINITION. The named operations over the registers: choosing a sweep, the capture port, the resets, the gate of
the diagnostic commands, and a leaf command's result. -/

namespace Sys2Proof.Machine

/-- The registers of sweep r. -/
def State.sweep (s : State) (r : Rx) : Sweep := if r = 0 then s.sweep0 else s.sweep1

/-- The state with the registers of sweep r replaced. -/
def State.setSweep (s : State) (r : Rx) (x : Sweep) : State :=
  if r = 0 then { s with sweep0 := x } else { s with sweep1 := x }

/-- PAIR index k. -/
def State.pair (s : State) (k : Fin 2) : SweepResult := if k = 0 then s.pair0 else s.pair1

/-- The state with FULL[0] and FULL[1] cleared: both buffers are released (10_state.md R24). -/
def State.releaseBuffers (s : State) : State :=
  { s with sweep0 := { s.sweep0 with full := false }, sweep1 := { s.sweep1 with full := false } }

/-- Capture is armed in RUNNING and in LOCATION_READY (45_session_orchestrator.md R116). -/
def captureArmed (s : State) : Bool := s.session == .running || s.session == .locationReady

/-- Both buffers are delivered: the "raw buffers ready" event (45_session_orchestrator.md R116). -/
def buffersReady (s : State) : Bool := s.sweep0.full && s.sweep1.full

/-- CAP(r, D): accepted exactly when capture is armed and FULL[r] = 0, else recorded in CAPREJ
(20_memory.md R57). -/
def deliver (s : State) (r : Rx) (d : RawBuffer) : State :=
  if captureArmed s && !(s.sweep r).full then
    s.setSweep r { s.sweep r with raw := d, full := true }
  else s.raise .refusedCapture

/-- Hardware reset and the RESET command: every register of 10_state.md R50 takes its reset value.  The constants
are not touched, and the ports are the agents', not registers (45_session_orchestrator.md R124;
70_reset_and_hazards.md R141). -/
def hardwareReset (s : State) : State :=
  { State.resetWith s.rom with pending := s.pending, replies := s.replies }

/-- What START clears: every per-sweep register, the pair, SWAPPED, ERR and ERR_SWEEP.  ARG, RES, LEAF and the
sticky bits are kept (45_session_orchestrator.md R122). -/
def clearSession (s : State) : State :=
  { s with
    sweep0 := Sweep.reset
    sweep1 := Sweep.reset
    pair0 := SweepResult.reset
    pair1 := SweepResult.reset
    swapped := false
    err := .none
    errSweep := 0 }

/-- A diagnostic command: `x` in IDLE; in any other state the word is rejected, ILLEGAL is set and nothing else
changes (30_encoding.md R70). -/
def diagnostic (s : State) (x : State) : State :=
  if s.session = .idle then x else s.raise .illegalCommand

/-- A leaf command's end: RES takes the result and LEAF the outcome (43_polynomial_matcher.md R101 to R103). -/
def leafResult (s : State) (v : BitVec 64) (code : LeafCode) : State :=
  { s with res := v }.raise (.leafOutcome code)

end Sys2Proof.Machine
end

