-- ==== Sys2Proof/Machine/RegisterMap.lean ====
section
/-! DEFINITION. The register map (20_memory.md R52): which register an address names, and the word a read of it
returns. -/

namespace Sys2Proof.Machine

/-- The registers of the register space by their names in 20_memory.md R52. -/
inductive Register where
  | cmd
  | status
  | argLo
  | argHi
  | resLo
  | resHi
  | pairInfo (k : Fin 2)
  | pairLoc (k : Fin 2)
  | swInfo (r : Rx)
  | chipsLo (r : Rx)
  | chipsHi (r : Rx)
  | matchInfo (r : Rx)
  | matchDist (r : Rx)
  | loc (r : Rx)
  | symW (r : Rx) (k : Fin 8)
  | rsymW (r : Rx) (k : Fin 4)
  | runW (r : Rx) (k : Fin 64)
  | tapsW (p : PolyIx)
  | lmW (p : PolyIx) (k : Fin 16)
  | rawW (r : Rx) (k : Fin 32)
  | unmapped
  deriving DecidableEq, Repr

/-- Addresses 0x000 to 0x00F (20_memory.md R52). -/
def lowRegister : Nat → Register
  | 0x0 => .cmd
  | 0x1 => .status
  | 0x2 => .argLo
  | 0x3 => .argHi
  | 0x4 => .resLo
  | 0x5 => .resHi
  | 0x6 => .pairInfo 0
  | 0x7 => .pairLoc 0
  | 0x8 => .pairInfo 1
  | 0x9 => .pairLoc 1
  | _ => .unmapped

/-- Addresses 0x010 + 8r to 0x017 + 8r, by their place in the group (20_memory.md R52). -/
def sweepRegister (r : Rx) : Nat → Register
  | 0 => .swInfo r
  | 1 => .chipsLo r
  | 2 => .chipsHi r
  | 3 => .matchInfo r
  | 4 => .matchDist r
  | 5 => .loc r
  | _ => .unmapped

/-- The register at a word address, by ranges of 20_memory.md R52. -/
def registerAt (a : Addr) : Register :=
  let n := a.toNat
  if n < 0x010 then lowRegister n
  else if n < 0x020 then sweepRegister (Fin.ofNat 2 ((n - 0x010) / 8)) ((n - 0x010) % 8)
  else if n < 0x030 then .symW (Fin.ofNat 2 ((n - 0x020) / 8)) (Fin.ofNat 8 (n - 0x020))
  else if n < 0x038 then .rsymW (Fin.ofNat 2 ((n - 0x030) / 4)) (Fin.ofNat 4 (n - 0x030))
  else if n < 0x040 then .unmapped
  else if n < 0x0C0 then .runW (Fin.ofNat 2 ((n - 0x040) / 64)) (Fin.ofNat 64 (n - 0x040))
  else if n < 0x0C4 then .tapsW (Fin.ofNat 4 (n - 0x0C0))
  else if n < 0x100 then .unmapped
  else if n < 0x140 then .lmW (Fin.ofNat 4 ((n - 0x100) / 16)) (Fin.ofNat 16 (n - 0x100))
  else if n < 0x180 then .rawW (Fin.ofNat 2 ((n - 0x140) / 32)) (Fin.ofNat 32 (n - 0x140))
  else .unmapped

/-- PAIRk_INFO: PAIR_POLY[k], PAIR_OFF[k] (20_memory.md R52). -/
def pairInfoWord (x : SweepResult) : Word :=
  (polyCode x.poly).setWidth 32 ||| (x.off.setWidth 32 <<< 8)

/-- SW_INFO[r]: NSYM, OVF, EXCL, SKIP0 (20_memory.md R52). -/
def swInfoWord (x : Sweep) : Word :=
  x.nsym.setWidth 32 ||| ((BitVec.ofBool x.ovf).setWidth 32 <<< 8) ||| ((BitVec.ofBool x.excl).setWidth 32 <<< 9)
    ||| ((BitVec.ofBool x.skip0).setWidth 32 <<< 10)

/-- MATCH_INFO[r]: POLY, OFFSET, WINDOW, THR (20_memory.md R52). -/
def matchInfoWord (x : Sweep) : Word :=
  (polyCode x.poly).setWidth 32 ||| (x.offset.setWidth 32 <<< 8) ||| (x.window.setWidth 32 <<< 16)
    ||| (x.thr.setWidth 32 <<< 24)

/-- MATCH_DIST[r]: DIST0, DIST1 (20_memory.md R52). -/
def matchDistWord (x : Sweep) : Word := x.dist0.setWidth 32 ||| (x.dist1.setWidth 32 <<< 8)

/-- SYMW[r][k]: SYM[16k + j] in bits 2j+1:2j (20_memory.md R52). -/
def symWord (x : Sweep) (k : Nat) : Word :=
  packFields 2 (fun j => (x.sym.toList.getD (16 * k + j) .zero).code.setWidth 32) 16

/-- RSYMW[r][k]: RSYM[32k + j] in bit j (20_memory.md R52). -/
def rsymWord (x : Sweep) (k : Nat) : Word :=
  packFields 1 (fun j => (BitVec.ofBool (x.rsym.toList.getD (32 * k + j) false)).setWidth 32) 32

/-- RUNW[r][k]: RUNLEN[2k] in bits 10:0, RUNLEN[2k+1] in bits 26:16 (20_memory.md R52). -/
def runWord (x : Sweep) (k : Nat) : Word :=
  packFields 16 (fun j => (x.runlen.toList.getD (2 * k + j) 0).setWidth 32) 2

/-- RAWW[r][k]: RAW[4k] in bits 31:24 down to RAW[4k+3] in bits 7:0 (20_memory.md R52, R58). -/
def rawWord (x : Sweep) (k : Nat) : Word :=
  packFields 8 (fun j => (x.raw.toList.getD (4 * k + (3 - j)) 0).setWidth 32) 4

/-- The word of a register; CMD and unmapped addresses read as 0 (20_memory.md R52, R55). -/
def registerWord (s : State) : Register → Word
  | .cmd => 0
  | .status => statusWord s
  | .argLo => lowWord s.arg
  | .argHi => highWord s.arg
  | .resLo => lowWord s.res
  | .resHi => highWord s.res
  | .pairInfo k => pairInfoWord (s.pair k)
  | .pairLoc k => (s.pair k).loc
  | .swInfo r => swInfoWord (s.sweep r)
  | .chipsLo r => lowWord (s.sweep r).chips
  | .chipsHi r => highWord (s.sweep r).chips
  | .matchInfo r => matchInfoWord (s.sweep r)
  | .matchDist r => matchDistWord (s.sweep r)
  | .loc r => (s.sweep r).loc
  | .symW r k => symWord (s.sweep r) k.val
  | .rsymW r k => rsymWord (s.sweep r) k.val
  | .runW r k => runWord (s.sweep r) k.val
  | .tapsW p => (s.rom.tap p).setWidth 32
  | .lmW p k => (s.rom.landmarkAt p k).setWidth 32
  | .rawW r k => rawWord (s.sweep r) k.val
  | .unmapped => 0

/-- MemRead(a, 4) (20_memory.md R55). -/
def memRead (s : State) (a : Addr) : Word := registerWord s (registerAt a)

end Sys2Proof.Machine
end

