-- ==== Sys2Proof/Machine/Classifier.lean ====
section
/-! DEFINITION. The Bit Classifier (41_bit_classifier.md): closed runs of the raw bits and their classes; the
CLASSIFY command. -/

namespace Sys2Proof.Machine

/-- The lengths of the closed runs in `bits`, when the bit before them is `prev` and the run it ends has `len` bits
so far.  A run is closed by a bit that differs from it; the final run is not closed and is dropped
(41_bit_classifier.md R76; log entry 7). -/
def closedRunsFrom (prev : Bool) (len : Nat) : List Bool → List Nat
  | [] => []
  | b :: rest => if b = prev then closedRunsFrom prev (len + 1) rest else len :: closedRunsFrom b 1 rest

/-- The lengths of the closed runs of a bit stream, in order (41_bit_classifier.md R76). -/
def closedRuns : List Bool → List Nat
  | [] => []
  | b :: rest => closedRunsFrom b 1 rest

/-- cls(L): ZERO when L >= 5, ONE when L <= 3, AMB when L = 4 (41_bit_classifier.md R77; 00_scope.md R9). -/
def classOf (len : Nat) : Ternary :=
  if Config.zeroMin ≤ len then .zero else if len ≤ Config.oneMax then .one else .amb

/-- EXCL: at least two closed runs, the first of length 1, the second AMB (41_bit_classifier.md R80). -/
def firstExcluded : List Nat → Bool
  | l0 :: l1 :: _ => l0 == 1 && classOf l1 == .amb
  | _ => false

/-- The resolved symbols below `n`; from n on they are 0 (10_state.md R30; 92_eei_decisions.md D54). -/
def resolvedBelow (n : Nat) (rsym : Vector Bool 128) : Vector Bool 128 :=
  Vector.ofFn fun j => decide (j.val < n) && rsym[j]

/-- The registers classify(r) writes, from the closed runs (41_bit_classifier.md R79, R81).  With the new NSYM the
entries of RSYM from NSYM on become 0, as 10_state.md R30 has them at all times; R81 does not list RSYM, and that a
classification clears these entries is the model's choice (log entry 8). -/
def recordRuns (runs : List Nat) (x : Sweep) : Sweep :=
  if Config.symCap < runs.length then
    { x with
      nsym := 0
      ovf := true
      excl := false
      runlen := Vector.replicate 128 0
      sym := Vector.replicate 128 .zero
      rsym := resolvedBelow 0 x.rsym }
  else
    { x with
      nsym := BitVec.ofNat 8 runs.length
      ovf := false
      excl := firstExcluded runs
      runlen := Vector.ofFn fun j => BitVec.ofNat 11 (runs.getD j.val 0)
      sym := Vector.ofFn fun j => if j.val < runs.length then classOf (runs.getD j.val 0) else .zero
      rsym := resolvedBelow runs.length x.rsym }

/-- classify(r) on the registers of a sweep (41_bit_classifier.md R75, R81).  It returned OVERFLOW exactly when OVF
is 1 afterwards. -/
def classifySweep (x : Sweep) : Sweep := recordRuns (closedRuns (rawBitList x.raw)) x

/-- CLASSIFY r (41_bit_classifier.md R82). -/
def execClassify (r : Rx) (s : State) : Host.Outcome State Fault Refusal :=
  .next (diagnostic s
    ((s.setSweep r (classifySweep (s.sweep r))).raise
      (.leafOutcome (if (classifySweep (s.sweep r)).ovf then .overflow else .none))))

end Sys2Proof.Machine
end

