-- ==== Sys2Proof/Machine/Lfsr.lean ====
section
/-! DEFINITION. The LFSR: the forward step and forward generation (43_polynomial_matcher.md R93, R94), the backward
step (44_reverse_counter.md R106), and the bits the matcher takes from a chip sequence (R95). -/

namespace Sys2Proof.Machine

/-- fwd(t, b) = ((b << 1) AND 0x1FFFF) OR parity(b AND t) (43_polynomial_matcher.md R93). -/
def fwd (t b : Lfsr) : Lfsr := (b <<< 1) ||| (BitVec.ofBool (parity (b &&& t))).setWidth 17

/-- back(t, b): the undone bit is b[0], the state shifts right, and the bit that must have been dropped returns at
the top (44_reverse_counter.md R106). -/
def back (t b : Lfsr) : Lfsr :=
  let s := b >>> 1
  let top := b.getLsbD 0 ^^ parity (s &&& t)
  s ||| ((BitVec.ofBool top).setWidth 17 <<< 16)

/-- The loop of poly_check from a state and an output so far (43_polynomial_matcher.md R94). -/
def polyCheckLoop (t : Lfsr) : (n : Nat) → (buf : Lfsr) → (out : BitVec 64) → BitVec 64
  | 0, _, out => out
  | n + 1, buf, out =>
    polyCheckLoop t n (fwd t buf) ((out <<< 1) ||| (BitVec.ofBool (parity (buf &&& t))).setWidth 64)

/-- poly_check(t, seed, N): the N parity bits generated from the seed, the first in bit N-1
(43_polynomial_matcher.md R94). -/
def polyCheck (t seed : Lfsr) (n : Nat) : BitVec 64 := polyCheckLoop t n seed 0

/-- seed_at(c, o) = (c >> (47 - o)) AND 0x1FFFF (43_polynomial_matcher.md R95). -/
def seedAt (c : BitVec 64) (o : Nat) : Lfsr := (c >>> (47 - o)).setWidth 17

/-- actual(c, o, w) = (c >> (47 - o - w)) AND mask(w), the w bits after the seed (43_polynomial_matcher.md R95). -/
def actualBits (c : BitVec 64) (o w : Nat) : BitVec 64 := (c >>> (47 - o - w)) &&& mask64 w

end Sys2Proof.Machine
end

