-- ==== Sys2Proof/Machine/Counter.lean ====
section
/-! DEFINITION. The Reverse Location Counter (44_reverse_counter.md): the bounded walk of R109, and the commands
LFSR_BACK, REVERSE_COUNT and LOCATE. -/

namespace Sys2Proof.Machine

/-- The smallest k with buf = LANDMARK[p][k] (44_reverse_counter.md R109). -/
def landmarkHit (rom : Rom) (p : PolyIx) (buf : Lfsr) : Option Nat :=
  rom.landmark[p].toList.findIdx? (· == buf)

/-- LM_STEPS(k) = LM_SPACING x k (44_reverse_counter.md R108). -/
def landmarkSteps (k : Nat) : Word := BitVec.ofNat 32 (Config.lmSpacing * k)

/-- The loop of reverse_count with `fuel` iterations left; none is TIMEOUT.  count is modulo 2^32
(44_reverse_counter.md R109, R110). -/
def reverseWalk (rom : Rom) (p : PolyIx) : (fuel : Nat) → (buf : Lfsr) → (count : Word) → Option Word
  | 0, buf, count => if buf = Config.ref then some count else none
  | fuel + 1, buf, count =>
    if buf = Config.ref then some count
    else
      match landmarkHit rom p buf with
      | some k => reverseWalk rom p fuel Config.ref (count + landmarkSteps k - 1 + 1)
      | none => reverseWalk rom p fuel (back (rom.tap p) buf) (count + 1)

/-- reverse_count(p, seed), bounded by REV_MAX_ITER; none is TIMEOUT (44_reverse_counter.md R109, R110). -/
def reverseCount (rom : Rom) (p : PolyIx) (seed : Lfsr) : Option Word :=
  reverseWalk rom p rom.revMaxIter seed 0

/-- The count of the sweep's seed at its matched offset (44_reverse_counter.md R114;
45_session_orchestrator.md R119). -/
def locateSeed (rom : Rom) (i : ActiveIx) (x : Sweep) : Option Word :=
  reverseCount rom (activePoly i) (seedAt x.chips x.offset.toNat)

/-- A location register from a count: LOC_NONE on TIMEOUT (44_reverse_counter.md R114). -/
def locOf : Option Word → Word
  | some x => x
  | none => Config.locNone

/-- The outcome of a count as LEAF records it (44_reverse_counter.md R113, R114). -/
def countLeaf : Option Word → LeafCode
  | some _ => .none
  | none => .timeout

/-- locate(r): the new LOC[r] and the outcome (44_reverse_counter.md R114). -/
def locateSweep (rom : Rom) (x : Sweep) : Word × LeafCode :=
  match x.poly with
  | none => (Config.locNone, .notFound)
  | some i => (locOf (locateSeed rom i x), countLeaf (locateSeed rom i x))

/-- LFSR_BACK p (44_reverse_counter.md R112). -/
def execLfsrBack (p : PolyIx) (s : State) : Host.Outcome State Fault Refusal :=
  .next (leafResult s ((back (s.rom.tap p) (seedOperand s.arg)).setWidth 64) .none)

/-- REVERSE_COUNT p (44_reverse_counter.md R113). -/
def execReverseCount (p : PolyIx) (s : State) : Host.Outcome State Fault Refusal :=
  let x := reverseCount s.rom p (seedOperand s.arg)
  .next (leafResult s ((locOf x).setWidth 64) (countLeaf x))

/-- LOCATE r (44_reverse_counter.md R114). -/
def execLocate (r : Rx) (s : State) : Host.Outcome State Fault Refusal :=
  let out := locateSweep s.rom (s.sweep r)
  .next (diagnostic s
    ((s.setSweep r { s.sweep r with loc := out.1 }).raise (.leafOutcome out.2)))

end Sys2Proof.Machine
end

