-- ==== Sys2Proof/Machine/Matcher.lean ====
section
/-! DEFINITION. The Polynomial Matcher (43_polynomial_matcher.md): the search of R97 to R99, and the commands
POPCOUNT, LFSR_FWD, POLY_CHECK, MATCH and MATCH_ARG. -/

namespace Sys2Proof.Machine

/-- What a search returns: (poly, o, w, h, d0, d1) (43_polynomial_matcher.md R99). -/
structure MatchResult where
  poly : Option ActiveIx
  offset : Nat
  window : Nat
  thr : Nat
  dist0 : Nat
  dist1 : Nat
  deriving DecidableEq, Repr

/-- The Hamming distance an attempt measures for one tap mask (43_polynomial_matcher.md R92, R97). -/
def attemptDistance (t : Lfsr) (c : BitVec 64) (o w : Nat) : Nat :=
  popcount (polyCheck t (seedAt c o) w ^^^ actualBits c o w)

/-- The decision of an attempt: the strictly smaller distance when it is at most the threshold; a tie is no match
(43_polynomial_matcher.md R97). -/
def decideMatch (d0 d1 h : Nat) : Option ActiveIx :=
  if min d0 d1 ≤ h ∧ d0 ≠ d1 then some (if d0 < d1 then 0 else 1) else none

/-- The search from window w on.  Every update lowers w by exactly 1, so the window is the measure
(43_polynomial_matcher.md R98, R99). -/
def matchFrom (t0 t1 : Lfsr) (c : BitVec 64) : (w : Nat) → (o h d0 d1 : Nat) → MatchResult
  | 0, o, h, d0, d1 => ⟨none, o, 0, h, d0, d1⟩
  | w + 1, o, h, d0, d1 =>
    if w + 1 < Config.winMin then ⟨none, o, w + 1, h, d0, d1⟩
    else
      let e0 := attemptDistance t0 c o (w + 1)
      let e1 := attemptDistance t1 c o (w + 1)
      match decideMatch e0 e1 h with
      | some i => ⟨some i, o, w + 1, h, e0, e1⟩
      | none =>
        if o = Config.offMax then matchFrom t0 t1 c w 0 (max Config.thrFloor (h - 1)) e0 e1
        else matchFrom t0 t1 c w (o + 1) h e0 e1

/-- match(c): TAPS[0] and TAPS[1] are compared, from offset 0, window 47, threshold 4
(43_polynomial_matcher.md R96, R99). -/
def matchChips (rom : Rom) (c : BitVec 64) : MatchResult :=
  matchFrom (rom.tap 0) (rom.tap 1) c Config.winInit 0 Config.thrInit 0 0

/-- The match registers of a sweep, written from a search's result (43_polynomial_matcher.md R104). -/
def recordMatch (m : MatchResult) (x : Sweep) : Sweep :=
  { x with
    poly := m.poly
    offset := BitVec.ofNat 8 m.offset
    window := BitVec.ofNat 8 m.window
    thr := BitVec.ofNat 8 m.thr
    dist0 := BitVec.ofNat 8 m.dist0
    dist1 := BitVec.ofNat 8 m.dist1 }

/-- The outcome of a search as LEAF records it (43_polynomial_matcher.md R104, R105). -/
def matchLeaf (m : MatchResult) : LeafCode := if m.poly.isNone then .notFound else .none

/-- RES of MATCH_ARG: 16 zero bits, then d1, d0, h, w, o, i of 8 bits each (43_polynomial_matcher.md R105). -/
def matchResultWord (m : MatchResult) : BitVec 64 :=
  (0x0000#16 ++ BitVec.ofNat 8 m.dist1 ++ BitVec.ofNat 8 m.dist0 ++ BitVec.ofNat 8 m.thr ++
    BitVec.ofNat 8 m.window ++ BitVec.ofNat 8 m.offset ++ polyCode m.poly).setWidth 64

/-- POPCOUNT (43_polynomial_matcher.md R101). -/
def execPopcount (s : State) : Host.Outcome State Fault Refusal :=
  .next (leafResult s (BitVec.ofNat 64 (popcount s.arg)) .none)

/-- LFSR_FWD p (43_polynomial_matcher.md R102). -/
def execLfsrFwd (p : PolyIx) (s : State) : Host.Outcome State Fault Refusal :=
  .next (leafResult s ((fwd (s.rom.tap p) (seedOperand s.arg)).setWidth 64) .none)

/-- POLY_CHECK p, n (43_polynomial_matcher.md R103). -/
def execPolyCheck (p : PolyIx) (n : Fin 64) (s : State) : Host.Outcome State Fault Refusal :=
  .next (leafResult s (polyCheck (s.rom.tap p) (seedOperand s.arg) n.val) .none)

/-- MATCH r (43_polynomial_matcher.md R104). -/
def execMatchSweep (r : Rx) (s : State) : Host.Outcome State Fault Refusal :=
  let m := matchChips s.rom (s.sweep r).chips
  .next (diagnostic s ((s.setSweep r (recordMatch m (s.sweep r))).raise (.leafOutcome (matchLeaf m))))

/-- MATCH_ARG (43_polynomial_matcher.md R105). -/
def execMatchArg (s : State) : Host.Outcome State Fault Refusal :=
  let m := matchChips s.rom (chipsOperand s.arg)
  .next (leafResult s (matchResultWord m) (matchLeaf m))

end Sys2Proof.Machine
end

