-- ==== Sys2Proof/Machine/Resolver.lean ====
section
/-! DEFINITION. The Chip Resolver (42_chip_resolver.md): the two passes over a working copy, packing, and the RESOLVE
command. -/

namespace Sys2Proof.Machine

/-- Symbol i of the working copy; every index the passes use is in range (42_chip_resolver.md R89). -/
def symbolAt (c : List Ternary) (i : Nat) : Ternary := c.getD i .zero

/-- ones_before(i): how many consecutive ONEs end at position i-1, none of them before position `lo`
(42_chip_resolver.md R84). -/
def onesBefore (c : List Ternary) (lo : Nat) : (i : Nat) → Nat
  | 0 => 0
  | i + 1 => if lo ≤ i ∧ symbolAt c i = .one then onesBefore c lo i + 1 else 0

/-- `lo`: 1 when symbol 0 is excluded from the count, else 0 (42_chip_resolver.md R84). -/
def countFloor (excl : Bool) : Nat := if excl then 1 else 0

/-- The forward pass at position i, cases F1 to F5 (42_chip_resolver.md R85). -/
def forwardAt (lo : Nat) (c : List Ternary) (i : Nat) : List Ternary :=
  if symbolAt c i = .amb then
    if i + 1 = c.length then c.set i .zero
    else if symbolAt c (i + 1) = .amb ∨ (1 ≤ i ∧ symbolAt c (i - 1) = .amb) then c
    else if onesBefore c lo i % 2 = 1 ∧ symbolAt c (i + 1) = .one then c.set i .one
    else if onesBefore c lo i % 2 = 0 ∧ symbolAt c (i + 1) = .zero then c.set i .zero
    else c
  else c

/-- The cleanup pass at position i, cases C1 and C2 (42_chip_resolver.md R86). -/
def cleanupAt (lo : Nat) (c : List Ternary) (i : Nat) : List Ternary :=
  match symbolAt c i with
  | .zero =>
    if onesBefore c lo i % 2 = 1 ∧ 1 ≤ i - onesBefore c lo i then c.set (i - onesBefore c lo i - 1) .one else c
  | .amb => c.set i (if onesBefore c lo i % 2 = 1 then .one else .zero)
  | .one => c

/-- A pass: positions 0, 1, ..., n-1 in that order, each seeing what the earlier ones left
(42_chip_resolver.md R83). -/
def scanPass (step : List Ternary → Nat → List Ternary) (c : List Ternary) : List Ternary :=
  (List.range c.length).foldl step c

/-- The forward pass and then the cleanup pass (42_chip_resolver.md R83, R85, R86). -/
def resolveSymbols (excl : Bool) (c : List Ternary) : List Ternary :=
  scanPass (cleanupAt (countFloor excl)) (scanPass (forwardAt (countFloor excl)) c)

/-- The classified symbols SYM[r][0..NSYM-1] (42_chip_resolver.md R83). -/
def classifiedSymbols (x : Sweep) : List Ternary := x.sym.toList.take x.nsym.toNat

/-- skip: packing leaves symbol 0 out when the CLASSIFIED symbol 0 is ONE or AMB (42_chip_resolver.md R88). -/
def skipFirst : List Ternary → Bool
  | [] => false
  | c :: _ => c != .zero

/-- CHIPS from the symbols that are packed: symbol k in bit 63-k, at most 64 of them, the bits below 0
(42_chip_resolver.md R88). -/
def packChips (bits : List Bool) : BitVec 64 :=
  BitVec.ofFnLE fun (j : Fin 64) => bits.getD (63 - j.val) false

/-- The resolved array: 1 for ONE, 0 for ZERO (42_chip_resolver.md R87). -/
def resolvedBits (x : Sweep) : List Bool :=
  (resolveSymbols x.excl (classifiedSymbols x)).map fun c => c == .one

/-- The resolved symbols that packing takes, from `start` on (42_chip_resolver.md R88). -/
def packedBits (x : Sweep) : List Bool :=
  if skipFirst (classifiedSymbols x) then (resolvedBits x).drop 1 else resolvedBits x

/-- resolve(r) on the registers of a sweep (42_chip_resolver.md R89). -/
def resolveSweep (x : Sweep) : Sweep :=
  { x with
    rsym := Vector.ofFn fun j => (resolvedBits x).getD j.val false
    chips := packChips (packedBits x)
    skip0 := skipFirst (classifiedSymbols x) }

/-- RESOLVE r (42_chip_resolver.md R91). -/
def execResolve (r : Rx) (s : State) : Host.Outcome State Fault Refusal :=
  .next (diagnostic s ((s.setSweep r (resolveSweep (s.sweep r))).raise (.leafOutcome .none)))

end Sys2Proof.Machine
end

