-- ==== Sys2Proof/Machine/Session.lean ====
section
/-! DEFINITION. The Session Orchestrator (45_session_orchestrator.md): START, STOP, RESET, TRY_ADVANCE and
PROCESS_LOCATION. -/

namespace Sys2Proof.Machine

/-- The resolver, matcher and location registers of a sweep whose window overflowed, at their reset values
(45_session_orchestrator.md R117). -/
def discardDerived (x : Sweep) : Sweep :=
  { x with
    rsym := Vector.replicate 128 false
    chips := 0
    skip0 := false
    poly := none
    offset := 0
    window := 0
    thr := 0
    dist0 := 0
    dist1 := 0
    loc := Config.locNone }

/-- The resolver, the matcher and the cleared location of a sweep whose window was classified
(45_session_orchestrator.md R117). -/
def resolveAndMatch (rom : Rom) (x : Sweep) : Sweep :=
  { recordMatch (matchChips rom (resolveSweep x).chips) (resolveSweep x) with loc := Config.locNone }

/-- decode_sweep(r): the registers it leaves (45_session_orchestrator.md R117). -/
def decodeSweep (rom : Rom) (x : Sweep) : Sweep :=
  if (classifySweep x).ovf then discardDerived (classifySweep x) else resolveAndMatch rom (classifySweep x)

/-- decode_sweep(r): what it returns, NONE standing for OK, read off the registers it left
(45_session_orchestrator.md R117). -/
def decodeOutcome (decoded : Sweep) : ErrCode :=
  if decoded.ovf then .overflow else if decoded.poly.isNone then .matchFail else .none

/-- TRY_ADVANCE when it decodes: both sweeps, the outcome in ERR, and the next session state
(45_session_orchestrator.md R118). -/
def advance (s : State) : State :=
  let x0 := decodeSweep s.rom s.sweep0
  let x1 := decodeSweep s.rom s.sweep1
  let e := firstFailure (decodeOutcome x0) (decodeOutcome x1)
  let t := { s with sweep0 := x0, sweep1 := x1 }.raise (.sessionOutcome e.1 e.2)
  if e.1 = .none then { t with session := .rawDataReady }
  else { t.releaseBuffers with session := .running }

/-- A sweep's result: its polynomial, offset and location (45_session_orchestrator.md R120). -/
def sweepResult (x : Sweep) : SweepResult := ⟨x.poly, x.offset, x.loc⟩

/-- The Location Pair in ascending order of location, compared as unsigned 32-bit numbers; equal locations are not
swapped (45_session_orchestrator.md R120). -/
def orderPair (s : State) : State :=
  if s.sweep1.loc < s.sweep0.loc then
    { s with pair0 := sweepResult s.sweep1, pair1 := sweepResult s.sweep0, swapped := true }
  else
    { s with pair0 := sweepResult s.sweep0, pair1 := sweepResult s.sweep1, swapped := false }

/-- The outcome of one sweep's location step (45_session_orchestrator.md R119). -/
def locateOutcome : Option Word → ErrCode
  | some _ => .none
  | none => .locTimeout

/-- PROCESS_LOCATION when it runs, from the two sweeps' counts (45_session_orchestrator.md R121). -/
def finishLocation (s : State) (c0 c1 : Option Word) : State :=
  let e := firstFailure (locateOutcome c0) (locateOutcome c1)
  let t :=
    { s with sweep0 := { s.sweep0 with loc := locOf c0 }, sweep1 := { s.sweep1 with loc := locOf c1 } }.releaseBuffers
  if e.1 = .none then { (orderPair t).raise (.sessionOutcome e.1 e.2) with session := .locationReady }
  else { t.raise (.sessionOutcome e.1 e.2) with session := .running }

/-- START (45_session_orchestrator.md R122). -/
def execStart (s : State) : Host.Outcome State Fault Refusal :=
  .next { clearSession s with session := .running }

/-- STOP: STATE alone changes (45_session_orchestrator.md R123). -/
def execStop (s : State) : Host.Outcome State Fault Refusal :=
  .next { s with session := .idle }

/-- RESET: the same as hardware reset (45_session_orchestrator.md R124). -/
def execReset (s : State) : Host.Outcome State Fault Refusal :=
  .next (hardwareReset s)

/-- TRY_ADVANCE: a no-op unless capture is armed and both buffers are delivered (45_session_orchestrator.md R118).
After one that decodes, the next is a no-op: no second one in a row differs from the first, though 20_memory.md R64
says that it can.  The model follows R118 (log entry 13). -/
def execTryAdvance (s : State) : Host.Outcome State Fault Refusal :=
  .next (if captureArmed s && buffersReady s then advance s else s)

/-- PROCESS_LOCATION: a no-op unless STATE = RAW_DATA_READY (45_session_orchestrator.md R121).  A sweep with no
polynomial cannot be located: the spec derives that there is none here (R119), and the model stops (log entry 6). -/
def execProcessLocation (s : State) : Host.Outcome State Fault Refusal :=
  if s.session = .rawDataReady then
    match s.sweep0.poly, s.sweep1.poly with
    | some i0, some i1 =>
      .next (finishLocation s (locateSeed s.rom i0 s.sweep0) (locateSeed s.rom i1 s.sweep1))
    | _, _ => .fault .noPolynomialToLocate
  else .next s

end Sys2Proof.Machine
end

