-- ==== Sys2Proof/Machine/Bus.lean ====
section
/-! DEFINITION. The three transactions: BUS-RD, BUS-WR with the execution of a command word, and CAP
(20_memory.md R55 to R57; 30_encoding.md R70). -/

namespace Sys2Proof.Machine

/-- The rule of a command (30_encoding.md R68).  `decodeCommand` answers one of the fifteen commands only, so the
last three lines are never reached; they reject. -/
def runCommand (i : Instr) (s : State) : Host.Outcome State Fault Refusal :=
  match i with
  | .start => execStart s
  | .stop => execStop s
  | .reset => execReset s
  | .tryAdvance => execTryAdvance s
  | .processLocation => execProcessLocation s
  | .classify r => execClassify r s
  | .resolve r => execResolve r s
  | .matchSweep r => execMatchSweep r s
  | .locate r => execLocate r s
  | .popcount => execPopcount s
  | .lfsrFwd p => execLfsrFwd p s
  | .lfsrBack p => execLfsrBack p s
  | .polyCheck p n => execPolyCheck p n s
  | .reverseCount p => execReverseCount p s
  | .matchArg => execMatchArg s
  | .busRd _ => .next (s.raise .illegalCommand)
  | .busWr _ _ => .next (s.raise .illegalCommand)
  | .cap _ _ => .next (s.raise .illegalCommand)

/-- execute(w): a word that spells no command sets ILLEGAL and changes nothing else; a command's rule is performed
(30_encoding.md R70). -/
def executeWord (w : Word) (s : State) : Host.Outcome State Fault Refusal :=
  match decodeCommand w with
  | .ok i => runCommand i s
  | .error _ => .next (s.raise .illegalCommand)

/-- BUS-RD: the host gets MemRead(a, 4), and no register changes (20_memory.md R55, R64). -/
def execBusRd (a : Addr) (s : State) : Host.Outcome State Fault Refusal :=
  .next { s with replies := s.replies ++ [memRead s a] }

/-- BUS-WR: MemWrite(a, 4, v) (20_memory.md R56). -/
def execBusWr (a : Addr) (v : Word) (s : State) : Host.Outcome State Fault Refusal :=
  match registerAt a with
  | .cmd => executeWord v s
  | .argLo => .next { s with arg := withLow s.arg v }
  | .argHi => .next { s with arg := withHigh s.arg v }
  | _ => .next (s.raise .badBusWrite)

/-- CAP: CAP(r, D) (20_memory.md R57). -/
def execCap (r : Rx) (d : RawBuffer) (s : State) : Host.Outcome State Fault Refusal :=
  .next (deliver s r d)

end Sys2Proof.Machine
end

