-- ==== Sys2Proof/Machine/Dispatch.lean ====
section
/-! DEFINITION. The meaning of every instruction, one arm for each constructor of `Sys2Proof.Instr`. -/

namespace Sys2Proof.Machine

def exec (i : Instr) (s : State) : Host.Outcome State Fault Refusal :=
  match i with
  | .start => Sys2Proof.Machine.execStart s
  | .stop => Sys2Proof.Machine.execStop s
  | .reset => Sys2Proof.Machine.execReset s
  | .tryAdvance => Sys2Proof.Machine.execTryAdvance s
  | .processLocation => Sys2Proof.Machine.execProcessLocation s
  | .classify r => Sys2Proof.Machine.execClassify r s
  | .resolve r => Sys2Proof.Machine.execResolve r s
  | .matchSweep r => Sys2Proof.Machine.execMatchSweep r s
  | .locate r => Sys2Proof.Machine.execLocate r s
  | .popcount => Sys2Proof.Machine.execPopcount s
  | .lfsrFwd p => Sys2Proof.Machine.execLfsrFwd p s
  | .lfsrBack p => Sys2Proof.Machine.execLfsrBack p s
  | .polyCheck p n => Sys2Proof.Machine.execPolyCheck p n s
  | .reverseCount p => Sys2Proof.Machine.execReverseCount p s
  | .matchArg => Sys2Proof.Machine.execMatchArg s
  | .busRd a => Sys2Proof.Machine.execBusRd a s
  | .busWr a v => Sys2Proof.Machine.execBusWr a v s
  | .cap r d => Sys2Proof.Machine.execCap r d s

end Sys2Proof.Machine
end

