-- ==== Sys2Proof/Machine/Step.lean ====
section
/-! DEFINITION. One step: the next transaction of the serial history is applied, whole (00_scope.md R7;
20_memory.md R59; 70_reset_and_hazards.md R144). -/

namespace Sys2Proof.Machine

/-- One step of the machine.  It takes the next pending transaction off its port and applies the instruction it is.
With no transaction pending the run has ended and the CORE does nothing (70_reset_and_hazards.md R142, R145; log
entry 2). -/
def step (s : State) : Host.Outcome State Fault Refusal :=
  match s.pending with
  | [] => .next s
  | t :: rest => exec (decode t) { s with pending := rest }

/-- The state in which the transaction whose bits are `w` (numbered as spec/opcode_table.json numbers the format of
`nbits` bits) is the next one the machine is presented with: the CORE fetches nothing (10_state.md R21), so the
place a transaction comes from is the front of `pending`. -/
def State.withFetchWord (s : State) (nbits w : Nat) : State :=
  match transactionOfTableWord nbits w with
  | some t => { s with pending := t :: s.pending }
  | none => s

end Sys2Proof.Machine
end

