-- ==== Sys2Proof/Safety.lean ====
section
/-! DEFINITION. What holds of every state a run reaches: the session invariants of 45_session_orchestrator.md R125
and the ranges of the per-sweep registers (10_state.md R25 to R38; 93_implementation_defined.md section 6). -/

namespace Sys2Proof.Machine

/-- The largest count the reverse counter can return, REV_MAX_ITER + 15 x LM_SPACING (10_state.md R38;
44_reverse_counter.md R110). -/
def longestCount (rom : Rom) : Nat := rom.revMaxIter + 15 * Config.lmSpacing

/-- (I1) In RAW_DATA_READY both buffers are owned and both sweeps have a polynomial
(45_session_orchestrator.md R125). -/
def RawReadyOwned (s : State) : Prop :=
  s.session = .rawDataReady →
    s.sweep0.full = true ∧ s.sweep1.full = true ∧ s.sweep0.poly.isSome = true ∧ s.sweep1.poly.isSome = true

/-- (I2) In LOCATION_READY the pair is ascending, names two polynomials, and neither location is LOC_NONE
(45_session_orchestrator.md R125). -/
def PairReady (s : State) : Prop :=
  s.session = .locationReady →
    s.pair0.loc ≤ s.pair1.loc ∧ s.pair0.poly.isSome = true ∧ s.pair1.poly.isSome = true ∧
      s.pair0.loc ≠ Config.locNone ∧ s.pair1.loc ≠ Config.locNone

/-- (I4) ERR = NONE implies ERR_SWEEP = 0 (45_session_orchestrator.md R125; 93_implementation_defined.md N6). -/
def ErrSweepNamed (s : State) : Prop := s.err = .none → s.errSweep = 0

/-- The invariants I1, I2 and I4 of 45_session_orchestrator.md R125 together. -/
def SessionInv (s : State) : Prop := RawReadyOwned s ∧ PairReady s ∧ ErrSweepNamed s

/-- NSYM, RUNLEN, SYM and OVF of a sweep are what a classification can leave, and RSYM is 0 from NSYM on
(10_state.md R25 to R28, R30; 92_eei_decisions.md D54). -/
def SymbolsInRange (x : Sweep) : Prop :=
  x.nsym.toNat ≤ Config.symCap ∧
    (∀ j : Fin 128, j.val < x.nsym.toNat →
      1 ≤ (x.runlen[j]).toNat ∧ (x.runlen[j]).toNat ≤ 1023 ∧ x.sym[j] = classOf (x.runlen[j]).toNat) ∧
    (∀ j : Fin 128, x.nsym.toNat ≤ j.val → x.runlen[j] = 0 ∧ x.sym[j] = .zero ∧ x.rsym[j] = false) ∧
    (x.ovf = true → x.nsym = 0)

/-- OFFSET, WINDOW, THR, DIST0 and DIST1 of a sweep are what a search can leave, or the reset values
(10_state.md R33 to R37; 93_implementation_defined.md N4). -/
def MatchInRange (x : Sweep) : Prop :=
  x.offset.toNat ≤ Config.offMax ∧ x.dist0.toNat ≤ Config.winInit ∧ x.dist1.toNat ≤ Config.winInit ∧
    ((x.window = 0 ∧ x.thr = 0 ∧ x.poly = none) ∨
      (9 ≤ x.window.toNat ∧ x.window.toNat ≤ Config.winInit ∧ 1 ≤ x.thr.toNat ∧ x.thr.toNat ≤ Config.thrInit ∧
        (x.window.toNat = 9 ↔ x.poly = none)))

/-- LOC of a sweep is LOC_NONE or a count (10_state.md R38; 93_implementation_defined.md N5). -/
def LocInRange (rom : Rom) (x : Sweep) : Prop :=
  x.loc = Config.locNone ∨ x.loc.toNat ≤ longestCount rom

/-- The per-sweep registers hold values of their ranges. -/
def RangeInv (s : State) : Prop :=
  ∀ r : Rx, SymbolsInRange (s.sweep r) ∧ MatchInRange (s.sweep r) ∧ LocInRange s.rom (s.sweep r)

/-- A run that is safe: every state keeps both invariants. -/
def Safe (s : State) : Prop := SessionInv s ∧ RangeInv s

end Sys2Proof.Machine
end

