-- ==== Sys2Proof/Certificates/Slice0/Obligations.lean ====
section
/-! DEFINITION. The statements for the provers.  What the rules of spec/ say is written out here in the rules' own
terms (namespace `Sys2Proof.Spec`), apart from the machine's definitions, wherever a rule gives a formula. -/

open Sys2Proof Sys2Proof.Machine

namespace Sys2Proof.Spec

/-- The number of 1 bits of a 64-bit value (43_polynomial_matcher.md R92). -/
def onesOf (v : BitVec 64) : Nat := ((Finset.univ : Finset (Fin 64)).filter fun i => v.getLsbD i.val = true).card

/-- The XOR of the bits of `b` that the mask `t` selects (43_polynomial_matcher.md R93: XOR-parity). -/
def tapped (t b : Lfsr) : Bool := ((List.range 17).map fun i => t.getLsbD i && b.getLsbD i).foldl xor false

/-- Raw bit i of a buffer, RAW[i div 8][7 - (i mod 8)] (20_memory.md R58). -/
def rawBit (d : RawBuffer) (i : Nat) : Bool := (d.toList.getD (i / 8) 0).getLsbD (7 - i % 8)

/-- The transition positions t_1 < t_2 < ... of a buffer (41_bit_classifier.md R76). -/
def transitions (d : RawBuffer) : List Nat :=
  (List.range 1024).filter fun i => decide (1 ≤ i) && (rawBit d i != rawBit d (i - 1))

/-- len_j = t_{j+1} - t_j, with t_0 = 0 (41_bit_classifier.md R76). -/
def runLength (d : RawBuffer) (j : Nat) : Nat := (transitions d).getD j 0 - (0 :: transitions d).getD j 0

/-- cls(L) (41_bit_classifier.md R77). -/
def cls (len : Nat) : Ternary := if len = 4 then .amb else if len < 4 then .one else .zero

/-- The codes of STATE (10_state.md R22). -/
def stateCode : Session → BitVec 2
  | .idle => 0
  | .running => 1
  | .rawDataReady => 2
  | .locationReady => 3

/-- The codes of a ternary symbol (10_state.md R27). -/
def symbolCode : Ternary → BitVec 2
  | .zero => 0
  | .one => 1
  | .amb => 2

/-- The codes of ERR (10_state.md R42). -/
def errorCode : ErrCode → BitVec 2
  | .none => 0
  | .overflow => 1
  | .matchFail => 2
  | .locTimeout => 3

/-- The codes of LEAF (10_state.md R43). -/
def leafCode : LeafCode → BitVec 2
  | .none => 0
  | .overflow => 1
  | .notFound => 2
  | .timeout => 3

/-- The codes of a polynomial register: 0, 1 and POLY_NONE = 0xFF (10_state.md R33; 00_scope.md R11). -/
def polynomialCode : Option ActiveIx → BitVec 8
  | some 0 => 0x00
  | some 1 => 0x01
  | none => 0xFF

/-- The commands legal in IDLE alone (30_encoding.md R68). -/
def isDiagnostic : Instr → Bool
  | .classify _ => true
  | .resolve _ => true
  | .matchSweep _ => true
  | .locate _ => true
  | _ => false

/-- The fifteen commands: every instruction but the three transactions (30_encoding.md R68). -/
def isCommand : Instr → Bool
  | .busRd _ => false
  | .busWr _ _ => false
  | .cap _ _ => false
  | _ => true

/-- The leaf commands (30_encoding.md R68). -/
def isLeaf : Instr → Bool
  | .popcount => true
  | .lfsrFwd _ => true
  | .lfsrBack _ => true
  | .polyCheck _ _ => true
  | .reverseCount _ => true
  | .matchArg => true
  | _ => false

/-- An instruction that rejects a command word: a write of no command to CMD, or a diagnostic command outside IDLE
(30_encoding.md R70). -/
def rejectsWord (i : Instr) (s : State) : Bool :=
  match i with
  | .busWr a _ => a == 0x000#9
  | _ => isDiagnostic i && s.session != .idle

/-- An instruction that is a write to an address that is not writable (20_memory.md R56). -/
def badWrite : Instr → Bool
  | .busWr a _ => a != 0x000#9 && a != 0x002#9 && a != 0x003#9
  | _ => false

/-- CAP(r, D) is accepted (20_memory.md R57). -/
def capAccepted (s : State) (r : Rx) : Prop :=
  (s.session = .running ∨ s.session = .locationReady) ∧ (s.sweep r).full = false

/-- A capture delivery that is refused (20_memory.md R57). -/
def refusedCap (i : Instr) (s : State) : Prop :=
  match i with
  | .cap r _ => ¬capAccepted s r
  | _ => False

/-- The word addresses of 20_memory.md R52; an unmapped address has no register, so the last line names one of
them. -/
def addressOf : Register → Nat
  | .cmd => 0x000
  | .status => 0x001
  | .argLo => 0x002
  | .argHi => 0x003
  | .resLo => 0x004
  | .resHi => 0x005
  | .pairInfo k => 0x006 + 2 * k.val
  | .pairLoc k => 0x007 + 2 * k.val
  | .swInfo r => 0x010 + 8 * r.val
  | .chipsLo r => 0x011 + 8 * r.val
  | .chipsHi r => 0x012 + 8 * r.val
  | .matchInfo r => 0x013 + 8 * r.val
  | .matchDist r => 0x014 + 8 * r.val
  | .loc r => 0x015 + 8 * r.val
  | .symW r k => 0x020 + 8 * r.val + k.val
  | .rsymW r k => 0x030 + 4 * r.val + k.val
  | .runW r k => 0x040 + 64 * r.val + k.val
  | .tapsW p => 0x0C0 + p.val
  | .lmW p k => 0x100 + 16 * p.val + k.val
  | .rawW r k => 0x140 + 32 * r.val + k.val
  | .unmapped => 0x00A

/-- The unmapped addresses of 20_memory.md R52. -/
def isUnmapped (n : Nat) : Prop :=
  (0x00A ≤ n ∧ n ≤ 0x00F) ∨ n = 0x016 ∨ n = 0x017 ∨ n = 0x01E ∨ n = 0x01F ∨ (0x038 ≤ n ∧ n ≤ 0x03F) ∨
    (0x0C4 ≤ n ∧ n ≤ 0x0FF) ∨ (0x180 ≤ n ∧ n ≤ 0x1FF)

/-- The per-sweep rows of the reset table (10_state.md R50). -/
def sweepAtReset (x : Sweep) : Prop :=
  (∀ i : Fin 128, x.raw[i] = 0 ∧ x.runlen[i] = 0 ∧ x.sym[i] = .zero ∧ x.rsym[i] = false) ∧
    x.full = false ∧ x.nsym = 0 ∧ x.ovf = false ∧ x.excl = false ∧ x.skip0 = false ∧ x.chips = 0 ∧
    polynomialCode x.poly = 0xFF#8 ∧ x.offset = 0 ∧ x.window = 0 ∧ x.thr = 0 ∧ x.dist0 = 0 ∧ x.dist1 = 0 ∧
    x.loc = 0xFFFFFFFF#32

/-- The pair rows of the reset table (10_state.md R50). -/
def pairAtReset (x : SweepResult) : Prop :=
  polynomialCode x.poly = 0xFF#8 ∧ x.off = 0 ∧ x.loc = 0xFFFFFFFF#32

/-- The whole reset table (10_state.md R50). -/
def atReset (s : State) : Prop :=
  s.session = .idle ∧ sweepAtReset s.sweep0 ∧ sweepAtReset s.sweep1 ∧ pairAtReset s.pair0 ∧ pairAtReset s.pair1 ∧
    s.swapped = false ∧ s.err = .none ∧ s.errSweep = 0 ∧ s.leaf = .none ∧ s.illegal = false ∧ s.busErr = false ∧
    s.capRej = false ∧ s.arg = 0 ∧ s.res = 0

/-- The offset, window and threshold of attempt number a (43_polynomial_matcher.md R99). -/
def attemptOffset (a : Nat) : Nat := a % 9
/-- See `attemptOffset`. -/
def attemptWindow (a : Nat) : Nat := 47 - a
/-- See `attemptOffset`. -/
def attemptThreshold (a : Nat) : Nat := max 1 (4 - a / 9)

/-- The Hamming distance attempt number a measures for the tap mask t (43_polynomial_matcher.md R95, R97). -/
def distanceAt (t : Lfsr) (c : BitVec 64) (a : Nat) : Nat :=
  onesOf (polyCheck t (seedAt c (attemptOffset a)) (attemptWindow a) ^^^
    actualBits c (attemptOffset a) (attemptWindow a))

/-- Attempt number a matches polynomial i (43_polynomial_matcher.md R97). -/
def matchesAt (rom : Rom) (c : BitVec 64) (a : Nat) (i : ActiveIx) : Prop :=
  min (distanceAt (rom.tap 0) c a) (distanceAt (rom.tap 1) c a) ≤ attemptThreshold a ∧
    distanceAt (rom.tap 0) c a ≠ distanceAt (rom.tap 1) c a ∧
    (i = 0 ↔ distanceAt (rom.tap 0) c a < distanceAt (rom.tap 1) c a)

/-- What a search that ended at attempt a with the answer i leaves, the distances being those of attempt d
(43_polynomial_matcher.md R99). -/
def searchResult (rom : Rom) (c : BitVec 64) (i : Option ActiveIx) (a d : Nat) (thr : Nat) : MatchResult :=
  ⟨i, attemptOffset a, attemptWindow a, thr, distanceAt (rom.tap 0) c d, distanceAt (rom.tap 1) c d⟩

/-- One sweep's registers with the result of a search written (43_polynomial_matcher.md R104). -/
def withMatch (x : Sweep) (m : MatchResult) : Sweep :=
  { x with
    poly := m.poly
    offset := BitVec.ofNat 8 m.offset
    window := BitVec.ofNat 8 m.window
    thr := BitVec.ofNat 8 m.thr
    dist0 := BitVec.ofNat 8 m.dist0
    dist1 := BitVec.ofNat 8 m.dist1 }

/-- The state with sweep r's registers replaced. -/
def withSweep (s : State) (r : Rx) (x : Sweep) : State :=
  match r with
  | 0 => { s with sweep0 := x }
  | 1 => { s with sweep1 := x }

/-- `n` backward steps from `b` (44_reverse_counter.md R106). -/
def backN (rom : Rom) (p : PolyIx) (n : Nat) (b : Lfsr) : Lfsr := (back (rom.tap p))^[n] b

/-- `b` is no landmark of polynomial p. -/
def noLandmark (rom : Rom) (p : PolyIx) (b : Lfsr) : Prop := ∀ k : Fin 16, b ≠ rom.landmarkAt p k

/-- The smallest landmark of p that equals b is number k (44_reverse_counter.md R109). -/
def firstLandmark (rom : Rom) (p : PolyIx) (b : Lfsr) (k : Fin 16) : Prop :=
  b = rom.landmarkAt p k ∧ ∀ j : Fin 16, j < k → b ≠ rom.landmarkAt p j

/-- The landmark table of p is consistent (00_scope.md R15). -/
def consistent (rom : Rom) (p : PolyIx) : Prop :=
  ∀ k : Fin 16, backN rom p (8192 * k.val) (rom.landmarkAt p k) = 0x00001#17

/-- P is the period of the LFSR from REF under the mask t (44_reverse_counter.md R111). -/
def isPeriod (t : Lfsr) (P : Nat) : Prop :=
  0 < P ∧ (fwd t)^[P] 0x00001#17 = 0x00001#17 ∧ ∀ m, 0 < m → m < P → (fwd t)^[m] 0x00001#17 ≠ 0x00001#17

/-- What decode_sweep(r) returned, read off OVF and POLY (45_session_orchestrator.md R117). -/
def outcomeOf (x : Sweep) : ErrCode := if x.ovf then .overflow else if x.poly = none then .matchFail else .none

/-- The registers of sweep r after CLASSIFY r, RESOLVE r and MATCH r have run on them in IDLE, one after the other
(41_bit_classifier.md R82, 42_chip_resolver.md R91, 43_polynomial_matcher.md R104). -/
def afterDiagnostics (s : State) (r : Rx) (x : Sweep) : Prop :=
  ∃ s1 s2 s3, exec (.classify r) { s with session := .idle } = .next s1 ∧ exec (.resolve r) s1 = .next s2 ∧
    exec (.matchSweep r) s2 = .next s3 ∧ s3.sweep r = x

end Sys2Proof.Spec

open Sys2Proof.Spec

/-! ### Encoding and the step -/

/-- Words written out from 30_encoding.md R69 and R65 decode to the instructions they stand for.  That a bit pattern's
length (16, 32 or 48, in whole bytes) tells its format, and that a 32-bit pattern that spells no command answers none,
is the model's choice (log entry 3). -/
def Obligations.WrittenOutWordsDecode : Prop :=
  decodeTableWord 32 0x00000004 = some .tryAdvance ∧
    decodeTableWord 32 0x00000110 = some (.classify 1) ∧
    decodeTableWord 32 0x0001FE23 = some (.polyCheck 3 63) ∧
    decodeTableWord 32 0x00000621 = some (.lfsrFwd 3) ∧
    decodeTableWord 32 0x00000424 = some (.reverseCount 2) ∧
    decodeTableWord 16 0x111 = some (.busRd 0x111#9) ∧
    decodeTableWord 48 0x203DEADBEEF = some (.busWr 0x003#9 0xDEADBEEF#32) ∧
    decodeTableWord 32 0x00000000 = none ∧
    decodeTableWord 32 0x00000121 = none ∧
    decodeTableWord 32 0x00020023 = none

/-- DECODE AND ENCODE AGREE, for every well-formed instruction with every operand (30_encoding.md R65, R66,
R69).  That a write of a legal command word to CMD is the command's own constructor is the model's choice (log entry
4). -/
def Obligations.DecodeOfEncodeIsTheInstruction : Prop :=
  ∀ i : Instr, i.wellFormed = true → decode (encode i) = i

/-- Every transaction is a well-formed instruction, and encoding it gives the transaction back: all of a capture's
and of a write's bits, and the header of a read, whose data lines carry nothing (30_encoding.md R65, R72; that a read
has idle data lines is the model's choice, log entry 3). -/
def Obligations.EncodeOfDecodeIsTheTransaction : Prop :=
  (∀ t : Transaction, (decode t).wellFormed = true) ∧
    (∀ m : BitVec 1025, encode (decode (.capture m)) = .capture m) ∧
    (∀ (h : BitVec 10) (v : Word), h.getLsbD 9 = true → encode (decode (.bus h v)) = .bus h v) ∧
    (∀ (h : BitVec 10) (v : Word), h.getLsbD 9 = false → encode (decode (.bus h v)) = .bus h 0)

/-- A word spells a mnemonic exactly when it has the mnemonic's match under its mask: the decoder accepts the words of
R69 and no other, to the instruction whose word it is, and no word spells two mnemonics (30_encoding.md R69). -/
def Obligations.WordsSpellExactlyTheirForms : Prop :=
  (∀ w : Word, (∃ i, decodeCommand w = .ok i) ↔ isCommandWord w = true) ∧
    (∀ w : Word, commandForms.countP (spellsForm w) ≤ 1) ∧
    (∀ (w : Word) (i : Instr), decodeCommand w = .ok i ↔ isCommand i = true ∧ encode i = .bus 0x200#10 w)

/-- A step runs the instruction the next transaction decodes to, with that transaction taken off its port; with none
pending it changes nothing.  The queue of pending transactions is the model's own (log entry 2). -/
def Obligations.StepRunsTheDecodedInstruction : Prop :=
  (∀ (s : State) (t : Transaction) (rest : List Transaction) (i : Instr), s.pending = t :: rest → decode t = i →
      i.wellFormed = true → step s = exec i { s with pending := rest }) ∧
    (∀ s : State, s.pending = [] → step s = .next s)

/-! ### The bus -/

/-- R70, whole: a word that spells no mnemonic sets ILLEGAL alone; so does a diagnostic command outside IDLE; any
other command's rule is performed. -/
def Obligations.CommandWordsExecute : Prop :=
  ∀ (w : Word) (s : State),
    (commandForms.any (fun form => (w &&& form.2) == form.1) = false →
        exec (.busWr 0x000#9 w) s = .next { s with illegal := true }) ∧
      (∀ i, decodeCommand w = .ok i →
        (isDiagnostic i = true ∧ s.session ≠ .idle → exec (.busWr 0x000#9 w) s = .next { s with illegal := true }) ∧
          (¬(isDiagnostic i = true ∧ s.session ≠ .idle) → exec (.busWr 0x000#9 w) s = exec i s))

/-- The diagnostic commands themselves, outside IDLE (30_encoding.md R70). -/
def Obligations.DiagnosticsOutsideIdleAreRejected : Prop :=
  ∀ (i : Instr) (s : State), isDiagnostic i = true → s.session ≠ .idle → exec i s = .next { s with illegal := true }

/-- MemWrite: ARG's two words, and BUSERR alone for every other address but CMD (20_memory.md R56). -/
def Obligations.BusWritesReachArgOrAreRecorded : Prop :=
  ∀ (a : Addr) (v : Word) (s : State),
    (a = 0x002#9 → ∃ x : BitVec 64, exec (.busWr a v) s = .next { s with arg := x } ∧ x.extractLsb' 0 32 = v ∧
        x.extractLsb' 32 32 = s.arg.extractLsb' 32 32) ∧
      (a = 0x003#9 → ∃ x : BitVec 64, exec (.busWr a v) s = .next { s with arg := x } ∧ x.extractLsb' 32 32 = v ∧
        x.extractLsb' 0 32 = s.arg.extractLsb' 0 32) ∧
      (a ≠ 0x000#9 → a ≠ 0x002#9 → a ≠ 0x003#9 → exec (.busWr a v) s = .next { s with busErr := true })

/-- A read returns the word of the register its address names and changes nothing else; CMD and unmapped addresses
read as 0 (20_memory.md R55).  That what a read returns is appended to `replies` is the model's choice (log entry 2). -/
def Obligations.BusReadsReturnTheMappedWord : Prop :=
  ∀ s : State,
    (∀ reg : Register, exec (.busRd (BitVec.ofNat 9 (addressOf reg))) s =
        .next { s with replies := s.replies ++ [registerWord s reg] }) ∧
      (∀ a : Addr, a = 0x000#9 ∨ isUnmapped a.toNat →
        exec (.busRd a) s = .next { s with replies := s.replies ++ [0x00000000#32] })

/-- The register map: each named register has its address of R52, and every other address is unmapped. -/
def Obligations.AddressesNameTheirRegisters : Prop :=
  (∀ reg : Register, reg ≠ .unmapped → registerAt (BitVec.ofNat 9 (addressOf reg)) = reg) ∧
    (∀ a : Addr, registerAt a = .unmapped ↔ isUnmapped a.toNat)

/-- The readback words of the scalar registers, field by field, with the codes of POLY (20_memory.md R52; 10_state.md
R33, R39). -/
def Obligations.ScalarReadbackWordsHoldTheirFields : Prop :=
  ∀ s : State,
    registerWord s .resLo = s.res.extractLsb' 0 32 ∧ registerWord s .resHi = s.res.extractLsb' 32 32 ∧
      registerWord s .argLo = s.arg.extractLsb' 0 32 ∧ registerWord s .argHi = s.arg.extractLsb' 32 32 ∧
      (∀ k : Fin 2, (registerWord s (.pairInfo k)).extractLsb' 0 8 = polynomialCode (s.pair k).poly ∧
        (registerWord s (.pairInfo k)).extractLsb' 8 8 = (s.pair k).off ∧
        (registerWord s (.pairInfo k)).extractLsb' 16 16 = 0 ∧ registerWord s (.pairLoc k) = (s.pair k).loc) ∧
      (∀ r : Rx, (registerWord s (.swInfo r)).extractLsb' 0 8 = (s.sweep r).nsym ∧
        (registerWord s (.swInfo r)).getLsbD 8 = (s.sweep r).ovf ∧
        (registerWord s (.swInfo r)).getLsbD 9 = (s.sweep r).excl ∧
        (registerWord s (.swInfo r)).getLsbD 10 = (s.sweep r).skip0 ∧
        (registerWord s (.swInfo r)).extractLsb' 11 21 = 0 ∧
        registerWord s (.chipsLo r) = (s.sweep r).chips.extractLsb' 0 32 ∧
        registerWord s (.chipsHi r) = (s.sweep r).chips.extractLsb' 32 32 ∧
        (registerWord s (.matchInfo r)).extractLsb' 0 8 = polynomialCode (s.sweep r).poly ∧
        (registerWord s (.matchInfo r)).extractLsb' 8 8 = (s.sweep r).offset ∧
        (registerWord s (.matchInfo r)).extractLsb' 16 8 = (s.sweep r).window ∧
        (registerWord s (.matchInfo r)).extractLsb' 24 8 = (s.sweep r).thr ∧
        (registerWord s (.matchDist r)).extractLsb' 0 8 = (s.sweep r).dist0 ∧
        (registerWord s (.matchDist r)).extractLsb' 8 8 = (s.sweep r).dist1 ∧
        (registerWord s (.matchDist r)).extractLsb' 16 16 = 0 ∧ registerWord s (.loc r) = (s.sweep r).loc) ∧
      (∀ p : PolyIx, (registerWord s (.tapsW p)).extractLsb' 0 17 = s.rom.taps[p] ∧
        (registerWord s (.tapsW p)).extractLsb' 17 15 = 0 ∧
        ∀ k : Fin 16, (registerWord s (.lmW p k)).extractLsb' 0 17 = s.rom.landmark[p][k] ∧
          (registerWord s (.lmW p k)).extractLsb' 17 15 = 0)

/-- The readback words of the arrays: SYMW, RSYMW and RUNW, element by element, with the codes of SYM
(20_memory.md R52; 10_state.md R27). -/
def Obligations.ArrayReadbackWordsHoldTheirElements : Prop :=
  ∀ (s : State) (r : Rx),
    (∀ (k : Fin 8) (j : Nat) (h : j < 16),
        (registerWord s (.symW r k)).extractLsb' (2 * j) 2 = symbolCode ((s.sweep r).sym[16 * k.val + j])) ∧
      (∀ (k : Fin 4) (j : Nat) (h : j < 32),
        (registerWord s (.rsymW r k)).getLsbD j = (s.sweep r).rsym[32 * k.val + j]) ∧
      (∀ k : Fin 64, (registerWord s (.runW r k)).extractLsb' 0 11 = (s.sweep r).runlen[2 * k.val] ∧
        (registerWord s (.runW r k)).extractLsb' 11 5 = 0 ∧
        (registerWord s (.runW r k)).extractLsb' 16 11 = (s.sweep r).runlen[2 * k.val + 1] ∧
        (registerWord s (.runW r k)).extractLsb' 27 5 = 0)

/-- The raw bit order, in the stream the classifier reads and in the RAWW readback words (20_memory.md R58). -/
def Obligations.RawBitsKeepTheirOrder : Prop :=
  ∀ (s : State) (r : Rx),
    (rawBitList (s.sweep r).raw).length = 1024 ∧
      ∀ i : Fin 1024, (rawBitList (s.sweep r).raw).getD i.val false = rawBit (s.sweep r).raw i.val ∧
        (registerWord s (.rawW r ⟨i.val / 32, by omega⟩)).getLsbD (31 - i.val % 32) = rawBit (s.sweep r).raw i.val

/-- The STATUS word, field by field, with the codes of STATE, ERR and LEAF, and its being read-only (10_state.md R49,
R22, R42, R43). -/
def Obligations.StatusWordHoldsItsFields : Prop :=
  ∀ s : State,
    (statusWord s).extractLsb' 0 2 = stateCode s.session ∧ (statusWord s).getLsbD 2 = s.sweep0.full ∧
      (statusWord s).getLsbD 3 = s.sweep1.full ∧ (statusWord s).extractLsb' 4 2 = errorCode s.err ∧
      ((statusWord s).getLsbD 6 = true ↔ s.errSweep = 1) ∧ (statusWord s).getLsbD 7 = s.swapped ∧
      (statusWord s).extractLsb' 8 2 = leafCode s.leaf ∧ (statusWord s).getLsbD 10 = s.illegal ∧
      (statusWord s).getLsbD 11 = s.busErr ∧ (statusWord s).getLsbD 12 = s.capRej ∧
      ((statusWord s).getLsbD 13 = true ↔ s.session = .locationReady) ∧ (statusWord s).extractLsb' 14 18 = 0 ∧
      registerWord s .status = statusWord s ∧ ∀ v : Word, exec (.busWr 0x001#9 v) s = .next { s with busErr := true }

/-! ### The capture port -/

/-- CAP, accepted or refused (20_memory.md R57). -/
def Obligations.CaptureIsAcceptedOrRecorded : Prop :=
  ∀ (r : Rx) (d : RawBuffer) (s : State),
    (capAccepted s r → exec (.cap r d) s = .next (withSweep s r { s.sweep r with raw := d, full := true })) ∧
      (¬capAccepted s r → exec (.cap r d) s = .next { s with capRej := true })

/-- A capture delivery changes no word a read can return, but the RAWW words of its receiver and, in STATUS, its FULL
bit and CAPREJ (20_memory.md R59). -/
def Obligations.CaptureLeavesEveryOtherReadableWord : Prop :=
  ∀ (r : Rx) (d : RawBuffer) (s t : State), exec (.cap r d) s = .next t →
    (∀ reg : Register, reg ≠ .status → (∀ k, reg ≠ .rawW r k) → registerWord t reg = registerWord s reg) ∧
      ∀ i, i ≠ 2 + r.val → i ≠ 12 → (statusWord t).getLsbD i = (statusWord s).getLsbD i

/-- Deliveries to the two receivers may come in either order: the state after both is the same
(45_session_orchestrator.md R118, corner cases). -/
def Obligations.CapturesOfTheTwoReceiversCommute : Prop :=
  ∀ (d0 d1 : RawBuffer) (s a b c d : State), exec (.cap 0 d0) s = .next a → exec (.cap 1 d1) a = .next b →
    exec (.cap 1 d1) s = .next c → exec (.cap 0 d0) c = .next d → b = d

/-! ### The classifier -/

/-- CLASSIFY r in IDLE: the closed runs of RAW[r] are the gaps between its transitions; their number, lengths and
classes, the overflow and the exclusion (41_bit_classifier.md R76, R77, R79 to R81); RSYM is 0 from the new NSYM on
(10_state.md R30) and as before below it; and nothing else changes.  That it is a classification that clears RSYM there
is the model's choice (log entry 8). -/
def Obligations.ClassifyMeasuresTheClosedRuns : Prop :=
  ∀ (r : Rx) (s : State), s.session = .idle → ∃ x : Sweep,
    exec (.classify r) s =
        .next { withSweep s r { s.sweep r with
          nsym := x.nsym, runlen := x.runlen, sym := x.sym, ovf := x.ovf, excl := x.excl
          rsym := x.rsym } with
          leaf := if 128 < (transitions (s.sweep r).raw).length then .overflow else .none } ∧
      (∀ j : Fin 128, x.rsym[j] = (decide (j.val < x.nsym.toNat) && (s.sweep r).rsym[j])) ∧
      (128 < (transitions (s.sweep r).raw).length →
        x.nsym = 0 ∧ x.ovf = true ∧ x.excl = false ∧ ∀ j : Fin 128, x.runlen[j] = 0 ∧ x.sym[j] = .zero) ∧
      ((transitions (s.sweep r).raw).length ≤ 128 →
        x.nsym.toNat = (transitions (s.sweep r).raw).length ∧ x.ovf = false ∧
          (x.excl = true ↔ 2 ≤ (transitions (s.sweep r).raw).length ∧ runLength (s.sweep r).raw 0 = 1 ∧
            cls (runLength (s.sweep r).raw 1) = .amb) ∧
          ∀ j : Fin 128,
            (j.val < (transitions (s.sweep r).raw).length →
              (x.runlen[j]).toNat = runLength (s.sweep r).raw j.val ∧
                x.sym[j] = cls (runLength (s.sweep r).raw j.val)) ∧
              ((transitions (s.sweep r).raw).length ≤ j.val → x.runlen[j] = 0 ∧ x.sym[j] = .zero))

/-- Complementing every raw bit changes nothing the classifier writes (41_bit_classifier.md R78), the entries of RSYM
it clears (log entry 8) included. -/
def Obligations.ClassificationIgnoresPolarity : Prop :=
  ∀ x y : Sweep, (∀ i : Fin 128, y.raw[i] = ~~~(x.raw[i])) →
    (classifySweep y).nsym = (classifySweep x).nsym ∧ (classifySweep y).runlen = (classifySweep x).runlen ∧
      (classifySweep y).sym = (classifySweep x).sym ∧ (classifySweep y).ovf = (classifySweep x).ovf ∧
      (classifySweep y).excl = (classifySweep x).excl ∧
      (y.rsym = x.rsym → (classifySweep y).rsym = (classifySweep x).rsym)

/-! ### The resolver -/

/-- RESOLVE r in IDLE: RSYM is the resolved copy, CHIPS packs it from the start symbol on with symbol k in bit 63-k,
SKIP0 tests the CLASSIFIED symbol 0, and nothing else changes (42_chip_resolver.md R87, R88, R91). -/
def Obligations.ResolvePacksTheResolvedSymbols : Prop :=
  ∀ (r : Rx) (s : State), s.session = .idle → (s.sweep r).nsym.toNat ≤ 128 → ∃ x : Sweep,
    exec (.resolve r) s =
        .next { withSweep s r { s.sweep r with rsym := x.rsym, chips := x.chips, skip0 := x.skip0 } with
          leaf := .none } ∧
      (∀ j : Fin 128, x.rsym[j] = true ↔ j.val < (s.sweep r).nsym.toNat ∧
        (resolveSymbols (s.sweep r).excl ((s.sweep r).sym.toList.take (s.sweep r).nsym.toNat)).getD j.val .zero = .one) ∧
      (x.skip0 = true ↔ 1 ≤ (s.sweep r).nsym.toNat ∧ (s.sweep r).sym[0] ≠ .zero) ∧
      ∀ k : Fin 64, x.chips.getLsbD (63 - k.val) =
        (decide (k.val + (if x.skip0 then 1 else 0) < (s.sweep r).nsym.toNat) &&
          x.rsym.toList.getD (k.val + (if x.skip0 then 1 else 0)) false)

/-- ones_before(i) is the largest k with i - k >= lo and s[i-k..i-1] all ONE, and 0 where there is none
(42_chip_resolver.md R84; the last is the model's reading, log entry 9). -/
def Obligations.OnesBeforeIsTheLongestRun : Prop :=
  ∀ (c : List Ternary) (lo i : Nat), i ≤ c.length →
    (onesBefore c lo i = 0 ∨ lo ≤ i - onesBefore c lo i) ∧ onesBefore c lo i ≤ i ∧
      (∀ j, i - onesBefore c lo i ≤ j → j < i → c.getD j .zero = .one) ∧
      ∀ k, k ≤ i → lo ≤ i - k → (∀ j, i - k ≤ j → j < i → c.getD j .zero = .one) → k ≤ onesBefore c lo i

/-- The two passes: the forward pass and then the cleanup pass visit positions 0, 1, ..., n-1 in that order; at a
position the forward pass takes the first of F1 to F5 that applies, and the cleanup pass takes C1 or C2
(42_chip_resolver.md R85, R86). -/
def Obligations.PassesTakeTheirCases : Prop :=
  (∀ (excl : Bool) (c : List Ternary), ∃ lo, lo = (if excl then 1 else 0) ∧
      resolveSymbols excl c =
        (List.range c.length).foldl (cleanupAt lo) ((List.range c.length).foldl (forwardAt lo) c)) ∧
    ∀ (lo : Nat) (c : List Ternary) (i k : Nat), i < c.length → k = onesBefore c lo i →
      (c.getD i .zero ≠ .amb → forwardAt lo c i = c) ∧
        (c.getD i .zero = .amb →
          (i + 1 = c.length → forwardAt lo c i = c.set i .zero) ∧
            (i + 1 < c.length →
              (c.getD (i + 1) .zero = .amb ∨ (1 ≤ i ∧ c.getD (i - 1) .zero = .amb) → forwardAt lo c i = c) ∧
                (¬(c.getD (i + 1) .zero = .amb ∨ (1 ≤ i ∧ c.getD (i - 1) .zero = .amb)) →
                  (k % 2 = 1 → c.getD (i + 1) .zero = .one → forwardAt lo c i = c.set i .one) ∧
                    (k % 2 = 0 → c.getD (i + 1) .zero = .zero → forwardAt lo c i = c.set i .zero) ∧
                    (k % 2 = 1 → c.getD (i + 1) .zero = .zero → forwardAt lo c i = c) ∧
                    (k % 2 = 0 → c.getD (i + 1) .zero = .one → forwardAt lo c i = c)))) ∧
        (c.getD i .zero = .zero →
          (k % 2 = 1 → 1 ≤ i - k → cleanupAt lo c i = c.set (i - k - 1) .one) ∧
            (¬(k % 2 = 1 ∧ 1 ≤ i - k) → cleanupAt lo c i = c)) ∧
        (c.getD i .zero = .amb → cleanupAt lo c i = c.set i (if k % 2 = 1 then .one else .zero)) ∧
        (c.getD i .zero = .one → cleanupAt lo c i = c)

/-- After the two passes no symbol is AMB, and there are as many symbols as before (42_chip_resolver.md R86). -/
def Obligations.NoSymbolStaysAmbiguous : Prop :=
  ∀ (excl : Bool) (c : List Ternary),
    (resolveSymbols excl c).length = c.length ∧ ∀ x ∈ resolveSymbols excl c, x ≠ .amb

/-- The parity property, which the spec tested and did not prove: between any two ZEROs of the resolved array with
only ONEs between them the number of ONEs is even (42_chip_resolver.md R90). -/
def Obligations.OnesBetweenZerosAreEven : Prop :=
  ∀ (r : Rx) (s t : State), s.session = .idle → (s.sweep r).nsym.toNat ≤ 128 → exec (.resolve r) s = .next t →
    ∀ a b : Nat, a < b → b < (s.sweep r).nsym.toNat →
      (t.sweep r).rsym.toList[a]? = some false → (t.sweep r).rsym.toList[b]? = some false →
      (∀ j, a < j → j < b → (t.sweep r).rsym.toList[j]? = some true) → (b - a - 1) % 2 = 0

/-! ### The matcher -/

/-- POPCOUNT: RES is the number of 1 bits of ARG, LEAF is NONE, nothing else changes (43_polynomial_matcher.md R101). -/
def Obligations.PopcountCountsTheOneBits : Prop :=
  ∀ s : State, exec .popcount s = .next { s with res := BitVec.ofNat 64 (onesOf s.arg), leaf := .none }

/-- The laws of the Hamming weight (43_polynomial_matcher.md R92). -/
def Obligations.HammingWeightLaws : Prop :=
  (∀ v : BitVec 64, popcount v = onesOf v ∧ popcount v ≤ 64) ∧ popcount (0 : BitVec 64) = 0 ∧
    popcount (0xFFFFFFFFFFFFFFFF#64) = 64 ∧
    ∀ v w : BitVec 64, (∀ i, i < 64 → w.getLsbD i = v.getLsbD (63 - i)) → popcount w = popcount v

/-- LFSR_FWD p: the state shifts left, the top bit is dropped and the tapped parity of the state before the shift
enters at the bottom (43_polynomial_matcher.md R93, R102). -/
def Obligations.LfsrFwdShiftsInTheTappedParity : Prop :=
  ∀ (p : PolyIx) (s : State), ∃ v : Lfsr,
    exec (.lfsrFwd p) s = .next { s with res := v.setWidth 64, leaf := .none } ∧
      v.getLsbD 0 = tapped (s.rom.taps[p]) (s.arg.extractLsb' 0 17) ∧
      ∀ i, i < 16 → v.getLsbD (i + 1) = s.arg.getLsbD i

/-- POLY_CHECK p, n: the bit generated at step j is RES bit n-1-j, and bits 63 down to n are 0
(43_polynomial_matcher.md R94, R103). -/
def Obligations.PolyCheckGeneratesTheParityBits : Prop :=
  ∀ (p : PolyIx) (n : Fin 64) (s : State), ∃ v : BitVec 64,
    exec (.polyCheck p n) s = .next { s with res := v, leaf := .none } ∧
      (∀ j, j < n.val → v.getLsbD (n.val - 1 - j) =
        tapped (s.rom.taps[p]) ((fwd (s.rom.taps[p]))^[j] (s.arg.extractLsb' 0 17))) ∧
      ∀ i, n.val ≤ i → v.getLsbD i = false

/-- The seed and the compared bits of an attempt, as bits of the chip sequence (43_polynomial_matcher.md R95). -/
def Obligations.SeedAndComparedBitsOfAnAttempt : Prop :=
  ∀ (c : BitVec 64) (o w : Nat), o + w ≤ 47 →
    (∀ i, i < 17 → (seedAt c o).getLsbD i = c.getLsbD (47 - o + i)) ∧
      ∀ i, (actualBits c o w).getLsbD i = (decide (i < w) && c.getLsbD (47 - o - w + i))

/-- The search returns the first attempt of the schedule that matches, or NOT_FOUND with offset 2, window 9,
threshold 1 and the distances of attempt 37 (43_polynomial_matcher.md R96 to R99). -/
def Obligations.SearchReturnsTheFirstMatchingAttempt : Prop :=
  ∀ (rom : Rom) (c : BitVec 64),
    (∃ a i, a ≤ 37 ∧ matchesAt rom c a i ∧ (∀ b, b < a → ∀ j, ¬matchesAt rom c b j) ∧
        matchChips rom c = searchResult rom c (some i) a a (attemptThreshold a)) ∨
      ((∀ b, b ≤ 37 → ∀ j, ¬matchesAt rom c b j) ∧ matchChips rom c = searchResult rom c none 38 37 1)

/-- MATCH r in IDLE: the six match registers take the search's result, LEAF says whether it found a polynomial, and
nothing else changes (43_polynomial_matcher.md R104). -/
def Obligations.MatchRecordsTheSearch : Prop :=
  ∀ (r : Rx) (s : State), s.session = .idle →
    exec (.matchSweep r) s =
      .next { withSweep s r (withMatch (s.sweep r) (matchChips s.rom (s.sweep r).chips)) with
        leaf := if (matchChips s.rom (s.sweep r).chips).poly = none then .notFound else .none }

/-- MATCH_ARG: the fields of RES, LEAF, and nothing else (43_polynomial_matcher.md R105). -/
def Obligations.MatchArgPacksTheSearch : Prop :=
  ∀ s : State, ∃ v : BitVec 64,
    exec .matchArg s =
        .next { s with res := v, leaf := if (matchChips s.rom s.arg).poly = none then .notFound else .none } ∧
      v.extractLsb' 0 8 = polynomialCode (matchChips s.rom s.arg).poly ∧
      v.extractLsb' 8 8 = BitVec.ofNat 8 (matchChips s.rom s.arg).offset ∧
      v.extractLsb' 16 8 = BitVec.ofNat 8 (matchChips s.rom s.arg).window ∧
      v.extractLsb' 24 8 = BitVec.ofNat 8 (matchChips s.rom s.arg).thr ∧
      v.extractLsb' 32 8 = BitVec.ofNat 8 (matchChips s.rom s.arg).dist0 ∧
      v.extractLsb' 40 8 = BitVec.ofNat 8 (matchChips s.rom s.arg).dist1 ∧ v.extractLsb' 48 16 = 0

/-- A clean sequence of polynomial i (the seed in the first 17 chips, then the 47 bits it generates) matches i at
offset 0 with the whole window and distance 0, unless the other polynomial generates the same bits
(43_polynomial_matcher.md R95 to R99; 95_test_vectors.md S4). -/
def Obligations.CleanSequenceMatchesAtOffsetZero : Prop :=
  ∀ (rom : Rom) (i : ActiveIx) (seed : Lfsr) (c : BitVec 64),
    polyCheck (rom.tap 0) seed 47 ≠ polyCheck (rom.tap 1) seed 47 →
    c = (seed.setWidth 64 <<< 47) ||| polyCheck (rom.tap (activePoly i)) seed 47 →
      (matchChips rom c).poly = some i ∧ (matchChips rom c).offset = 0 ∧ (matchChips rom c).window = 47 ∧
        (matchChips rom c).thr = 4 ∧
        (if i = 0 then (matchChips rom c).dist0 else (matchChips rom c).dist1) = 0

/-! ### The reverse counter -/

/-- LFSR_BACK p: the state shifts right, and the top bit is the undone bit XOR the tapped parity of the shifted state
(44_reverse_counter.md R106, R112). -/
def Obligations.LfsrBackRestoresTheDroppedBit : Prop :=
  ∀ (p : PolyIx) (s : State), ∃ v : Lfsr,
    exec (.lfsrBack p) s = .next { s with res := v.setWidth 64, leaf := .none } ∧
      (∀ i, i < 16 → v.getLsbD i = s.arg.getLsbD (i + 1)) ∧
      v.getLsbD 16 = xor (s.arg.getLsbD 0) (tapped (s.rom.taps[p]) (s.arg.extractLsb' 0 17 >>> 1))

/-- The inverse law: back undoes fwd and fwd undoes back when the mask has bit 16; without it back is not fwd's
inverse; the state 0 is fixed (44_reverse_counter.md R107). -/
def Obligations.BackwardStepInvertsForwardStep : Prop :=
  (∀ t b : Lfsr, t.getLsbD 16 = true → back t (fwd t b) = b ∧ fwd t (back t b) = b) ∧
    (∀ t : Lfsr, t.getLsbD 16 = false → ∃ b, back t (fwd t b) ≠ b) ∧ ∀ t : Lfsr, back t 0 = 0

/-- The walk of reverse_count, in closed form: it ends at REF after as many steps as it took, or at the first landmark
with that landmark's 8192 k more, or in TIMEOUT when neither is met in time (44_reverse_counter.md R109, R110). -/
def Obligations.ReverseCountWalksToReferenceOrLandmark : Prop :=
  ∀ (rom : Rom) (p : PolyIx) (seed : Lfsr),
    (∀ n, n ≤ rom.revMaxIter → backN rom p n seed = 0x00001#17 →
        (∀ j, j < n → backN rom p j seed ≠ 0x00001#17 ∧ noLandmark rom p (backN rom p j seed)) →
        reverseCount rom p seed = some (BitVec.ofNat 32 n)) ∧
      (∀ n k, n < rom.revMaxIter → firstLandmark rom p (backN rom p n seed) k →
        (∀ j, j ≤ n → backN rom p j seed ≠ 0x00001#17) → (∀ j, j < n → noLandmark rom p (backN rom p j seed)) →
        reverseCount rom p seed = some (BitVec.ofNat 32 (n + 8192 * k.val))) ∧
      (reverseCount rom p seed = none ↔
        (∀ j, j ≤ rom.revMaxIter → backN rom p j seed ≠ 0x00001#17) ∧
          ∀ j, j < rom.revMaxIter → noLandmark rom p (backN rom p j seed))

/-- A count is at most REV_MAX_ITER + 8192 x 15, and under every bound and all tables it is never the sentinel
LOC_NONE, since a walk that ends meets no 17-bit state twice; the seed 0 times out unless a landmark is 0
(44_reverse_counter.md R110). -/
def Obligations.ReverseCountIsBounded : Prop :=
  (∀ (rom : Rom) (p : PolyIx) (seed : Lfsr) (x : Word), reverseCount rom p seed = some x →
      x.toNat ≤ rom.revMaxIter + 8192 * 15 ∧ x.toNat ≤ 131071 + 8192 * 15 ∧ x ≠ 0xFFFFFFFF#32) ∧
    ∀ (rom : Rom) (p : PolyIx), noLandmark rom p 0 → reverseCount rom p 0 = none

/-- REVERSE_COUNT p: RES and LEAF from the count of the seed ARG[16:0], nothing else (44_reverse_counter.md R113). -/
def Obligations.ReverseCountCommandReportsTheCount : Prop :=
  ∀ (p : PolyIx) (s : State),
    (∀ x, reverseCount s.rom p (s.arg.extractLsb' 0 17) = some x →
        exec (.reverseCount p) s = .next { s with res := x.setWidth 64, leaf := .none }) ∧
      (reverseCount s.rom p (s.arg.extractLsb' 0 17) = none →
        exec (.reverseCount p) s = .next { s with res := 0x00000000FFFFFFFF#64, leaf := .timeout })

/-- The meaning of the count, and the round-trip law: with bit 16 in the mask and a consistent table, a successful
REVERSE_COUNT reports an N with N backward steps from the seed to REF and N forward steps from REF to the seed; modulo
the period P it is the least such N; and the count of the seed M steps on is the count plus M, modulo P
(44_reverse_counter.md R111).  The two counts agree modulo P, and as numbers where P exceeds every landmark distance,
15 x 8192: for a shorter period R111's equation is read as that congruence (log entry 14). -/
def Obligations.CountIsAForwardDistanceFromReference : Prop :=
  ∀ (p : PolyIx) (s t : State), (s.rom.tap p).getLsbD 16 = true → consistent s.rom p →
    exec (.reverseCount p) s = .next t → t.leaf = .none →
      backN s.rom p t.res.toNat (s.arg.extractLsb' 0 17) = 0x00001#17 ∧
        (fwd (s.rom.tap p))^[t.res.toNat] 0x00001#17 = s.arg.extractLsb' 0 17 ∧
        ∀ P, isPeriod (s.rom.tap p) P →
          (∀ m, (fwd (s.rom.tap p))^[m] 0x00001#17 = s.arg.extractLsb' 0 17 → t.res.toNat % P ≤ m) ∧
            ∀ (M : Nat) (u v : State), u.rom = s.rom →
              u.arg.extractLsb' 0 17 = (fwd (s.rom.tap p))^[M] (s.arg.extractLsb' 0 17) →
              exec (.reverseCount p) u = .next v → v.leaf = .none →
                v.res.toNat % P = (t.res.toNat + M) % P ∧ (122880 < P → v.res.toNat = (t.res.toNat + M) % P)

/-- LOCATE r in IDLE: LOC[r] and LEAF in its three cases, nothing else (44_reverse_counter.md R114). -/
def Obligations.LocateReportsTheSweepsLocation : Prop :=
  ∀ (r : Rx) (s : State), s.session = .idle →
    ((s.sweep r).poly = none →
        exec (.locate r) s =
          .next { withSweep s r { s.sweep r with loc := 0xFFFFFFFF#32 } with leaf := .notFound }) ∧
      ∀ i, (s.sweep r).poly = some i →
        (∀ x, reverseCount s.rom (activePoly i) (seedAt (s.sweep r).chips (s.sweep r).offset.toNat) = some x →
          exec (.locate r) s = .next { withSweep s r { s.sweep r with loc := x } with leaf := .none }) ∧
          (reverseCount s.rom (activePoly i) (seedAt (s.sweep r).chips (s.sweep r).offset.toNat) = none →
            exec (.locate r) s =
              .next { withSweep s r { s.sweep r with loc := 0xFFFFFFFF#32 } with leaf := .timeout })

/-! ### The session -/

/-- The state after hardware reset holds the table of R50 (10_state.md R50; 70_reset_and_hazards.md R141). -/
def Obligations.ResetStateHoldsTheResetTable : Prop := atReset State.reset

/-- RESET puts every register at its reset value; the tables and the parameter are unaffected, and so are the model's
own two fields (45_session_orchestrator.md R124; log entry 2). -/
def Obligations.ResetCommandRestoresTheResetTable : Prop :=
  ∀ s : State, ∃ t, exec .reset s = .next t ∧ atReset t ∧ t.rom = s.rom ∧ t.pending = s.pending ∧
    t.replies = s.replies

/-- START: RUNNING, every per-sweep register, the pair, SWAPPED, ERR and ERR_SWEEP at their reset values, and ARG,
RES, LEAF and the sticky bits kept (45_session_orchestrator.md R122). -/
def Obligations.StartClearsTheSession : Prop :=
  ∀ s : State, ∃ t : State,
    exec .start s =
        .next { s with
          session := .running, sweep0 := t.sweep0, sweep1 := t.sweep1, pair0 := t.pair0, pair1 := t.pair1
          swapped := false, err := .none, errSweep := 0 } ∧
      sweepAtReset t.sweep0 ∧ sweepAtReset t.sweep1 ∧ pairAtReset t.pair0 ∧ pairAtReset t.pair1

/-- STOP: STATE alone changes, every CAP is then refused, and PAIR_VALID reads 0 (45_session_orchestrator.md R123). -/
def Obligations.StopDisarmsCapture : Prop :=
  ∀ s : State, exec .stop s = .next { s with session := .idle } ∧
    ∀ t, exec .stop s = .next t → (statusWord t).getLsbD 13 = false ∧
      ∀ (r : Rx) (d : RawBuffer), exec (.cap r d) t = .next { t with capRej := true }

/-- TRY_ADVANCE with nothing to decode is a no-op (45_session_orchestrator.md R118). -/
def Obligations.TryAdvanceWaitsForBothBuffers : Prop :=
  ∀ s : State,
    ¬((s.session = .running ∨ s.session = .locationReady) ∧ s.sweep0.full = true ∧ s.sweep1.full = true) →
      exec .tryAdvance s = .next s

/-- TRY_ADVANCE when it decodes: ERR and ERR_SWEEP from the first failure, sweep 0 before sweep 1, the next session
state, the release of both buffers on failure, and nothing else but the decoded sweeps (45_session_orchestrator.md
R117, R118). -/
def Obligations.TryAdvanceDecodesBothSweeps : Prop :=
  ∀ s : State, (s.session = .running ∨ s.session = .locationReady) → s.sweep0.full = true → s.sweep1.full = true →
    ∃ x0 x1 : Sweep,
      x0 = decodeSweep s.rom s.sweep0 ∧ x1 = decodeSweep s.rom s.sweep1 ∧
        (outcomeOf x0 ≠ .none →
          exec .tryAdvance s =
            .next { s with
              session := .running, sweep0 := { x0 with full := false }, sweep1 := { x1 with full := false }
              err := outcomeOf x0, errSweep := 0 }) ∧
        (outcomeOf x0 = .none → outcomeOf x1 ≠ .none →
          exec .tryAdvance s =
            .next { s with
              session := .running, sweep0 := { x0 with full := false }, sweep1 := { x1 with full := false }
              err := outcomeOf x1, errSweep := 1 }) ∧
        (outcomeOf x0 = .none → outcomeOf x1 = .none →
          exec .tryAdvance s =
            .next { s with session := .rawDataReady, sweep0 := x0, sweep1 := x1, err := .none, errSweep := 0 })

/-- decode_sweep is the three diagnostic commands in a row: where the window does not overflow, it leaves what
CLASSIFY, RESOLVE and MATCH leave in IDLE, with LOC cleared; where it overflows, the symbol registers are CLASSIFY's
and the later stages' registers are at their reset values (45_session_orchestrator.md R117). -/
def Obligations.DecodeSweepIsTheDiagnosticStages : Prop :=
  ∀ (s : State) (r : Rx),
    ((classifySweep (s.sweep r)).ovf = false →
        ∃ x, afterDiagnostics s r x ∧ decodeSweep s.rom (s.sweep r) = { x with loc := 0xFFFFFFFF#32 }) ∧
      ((classifySweep (s.sweep r)).ovf = true → ∃ x y t : _,
        exec (.classify r) { s with session := .idle } = .next t ∧ x = t.sweep r ∧ sweepAtReset y ∧
          decodeSweep s.rom (s.sweep r) =
            { y with
              raw := x.raw, full := x.full, nsym := x.nsym, runlen := x.runlen, sym := x.sym, ovf := x.ovf
              excl := x.excl })

/-- A sweep is decoded from its own raw bits and the tables alone: whatever else two states hold, a TRY_ADVANCE that
decodes leaves the same registers of that sweep, FULL apart (45_session_orchestrator.md R117; 41_bit_classifier.md
R75). -/
def Obligations.DecodingReadsOnlyTheSweepsOwnBuffer : Prop :=
  ∀ (r : Rx) (s s' t t' : State), captureArmed s = true → captureArmed s' = true → buffersReady s = true →
    buffersReady s' = true → s.rom = s'.rom → (s.sweep r).raw = (s'.sweep r).raw →
    exec .tryAdvance s = .next t → exec .tryAdvance s' = .next t' →
      { t.sweep r with full := false } = { t'.sweep r with full := false }

/-- PROCESS_LOCATION outside RAW_DATA_READY is a complete no-op (45_session_orchestrator.md R121). -/
def Obligations.ProcessLocationIsANoOpElsewhere : Prop :=
  ∀ s : State, s.session ≠ .rawDataReady → exec .processLocation s = .next s

/-- PROCESS_LOCATION in RAW_DATA_READY: both sweeps are located and both buffers released; a timeout is reported for
the first sweep that timed out, with the pair kept; else the pair is written in ascending order of location, each
result whole (45_session_orchestrator.md R119 to R121). -/
def Obligations.ProcessLocationLocatesBothSweeps : Prop :=
  ∀ (s : State) (i0 i1 : ActiveIx) (c0 c1 : Option Word),
    s.session = .rawDataReady → s.sweep0.poly = some i0 → s.sweep1.poly = some i1 →
    c0 = reverseCount s.rom (activePoly i0) (seedAt s.sweep0.chips s.sweep0.offset.toNat) →
    c1 = reverseCount s.rom (activePoly i1) (seedAt s.sweep1.chips s.sweep1.offset.toNat) →
    ∃ t, exec .processLocation s = .next t ∧
      t = { s with
        session := t.session, sweep0 := t.sweep0, sweep1 := t.sweep1, pair0 := t.pair0, pair1 := t.pair1
        swapped := t.swapped, err := t.err, errSweep := t.errSweep } ∧
      t.sweep0 = { s.sweep0 with loc := c0.getD 0xFFFFFFFF#32, full := false } ∧
      t.sweep1 = { s.sweep1 with loc := c1.getD 0xFFFFFFFF#32, full := false } ∧
      (c0 = none ∨ c1 = none →
        t.session = .running ∧ t.err = .locTimeout ∧ (t.errSweep = 0 ↔ c0 = none) ∧ t.pair0 = s.pair0 ∧
          t.pair1 = s.pair1 ∧ t.swapped = s.swapped) ∧
      ∀ l0 l1, c0 = some l0 → c1 = some l1 →
        t.session = .locationReady ∧ t.err = .none ∧ t.errSweep = 0 ∧
          (l1.toNat < l0.toNat →
            t.pair0 = ⟨some i1, s.sweep1.offset, l1⟩ ∧ t.pair1 = ⟨some i0, s.sweep0.offset, l0⟩ ∧
              t.swapped = true) ∧
          (l0.toNat ≤ l1.toNat →
            t.pair0 = ⟨some i0, s.sweep0.offset, l0⟩ ∧ t.pair1 = ⟨some i1, s.sweep1.offset, l1⟩ ∧
              t.swapped = false)

/-- The complete transition table of STATE (45_session_orchestrator.md R115): what each event may do to STATE. -/
def Obligations.SessionStatesFollowTheTransitionTable : Prop :=
  ∀ (i : Instr) (s t : State), i.wellFormed = true → exec i s = .next t →
    match i with
    | .start => t.session = .running
    | .stop => t.session = .idle
    | .reset => t.session = .idle
    | .tryAdvance =>
      if (s.session = .running ∨ s.session = .locationReady) ∧ s.sweep0.full = true ∧ s.sweep1.full = true then
        t.session = .rawDataReady ∨ t.session = .running
      else t.session = s.session
    | .processLocation =>
      if s.session = .rawDataReady then t.session = .locationReady ∨ t.session = .running
      else t.session = s.session
    | _ => t.session = s.session

/-! ### The whole machine -/

/-- The sticky bits: each is set by its condition and by nothing else, and RESET alone clears them
(10_state.md R44). -/
def Obligations.StickyBitsRecordRejections : Prop :=
  ∀ (i : Instr) (s t : State), i.wellFormed = true → exec i s = .next t →
    if i = .reset then t.illegal = false ∧ t.busErr = false ∧ t.capRej = false
    else
      (t.illegal = true ↔ s.illegal = true ∨ rejectsWord i s = true) ∧
        (t.busErr = true ↔ s.busErr = true ∨ badWrite i = true) ∧
        (t.capRej = true ↔ s.capRej = true ∨ refusedCap i s)

/-- Who writes what: each register of 10_state.md changes only under RESET and the instructions its rule names as
writers (R22 to R46; of the sticky bits, an instruction of the kind that is rejected).  RSYM has CLASSIFY beside the
writers of R30, for the entries past the new NSYM: that is the model's choice (log entry 8). -/
def Obligations.RegistersChangeOnlyUnderTheirWriters : Prop :=
  ∀ (i : Instr) (s t : State), i.wellFormed = true → exec i s = .next t → i ≠ .reset →
    (t.session ≠ s.session → i = .start ∨ i = .stop ∨ i = .tryAdvance ∨ i = .processLocation) ∧
      (t.arg ≠ s.arg → ∃ v, i = .busWr 0x002#9 v ∨ i = .busWr 0x003#9 v) ∧
      (t.res ≠ s.res → isLeaf i = true) ∧
      (t.leaf ≠ s.leaf → isLeaf i = true ∨ isDiagnostic i = true) ∧
      (t.err ≠ s.err ∨ t.errSweep ≠ s.errSweep → i = .start ∨ i = .tryAdvance ∨ i = .processLocation) ∧
      (t.pair0 ≠ s.pair0 ∨ t.pair1 ≠ s.pair1 ∨ t.swapped ≠ s.swapped → i = .start ∨ i = .processLocation) ∧
      (t.illegal ≠ s.illegal → isDiagnostic i = true ∨ ∃ v, i = .busWr 0x000#9 v) ∧
      (t.busErr ≠ s.busErr → ∃ a v, i = .busWr a v) ∧
      (t.capRej ≠ s.capRej → ∃ q d, i = .cap q d) ∧
      ∀ r : Rx,
        ((t.sweep r).raw ≠ (s.sweep r).raw → i = .start ∨ ∃ d, i = .cap r d) ∧
          ((t.sweep r).full ≠ (s.sweep r).full →
            i = .start ∨ i = .tryAdvance ∨ i = .processLocation ∨ ∃ d, i = .cap r d) ∧
          ((t.sweep r).nsym ≠ (s.sweep r).nsym ∨ (t.sweep r).runlen ≠ (s.sweep r).runlen ∨
              (t.sweep r).sym ≠ (s.sweep r).sym ∨ (t.sweep r).ovf ≠ (s.sweep r).ovf ∨
              (t.sweep r).excl ≠ (s.sweep r).excl →
            i = .start ∨ i = .tryAdvance ∨ i = .classify r) ∧
          ((t.sweep r).rsym ≠ (s.sweep r).rsym →
            i = .start ∨ i = .tryAdvance ∨ i = .resolve r ∨ i = .classify r) ∧
          ((t.sweep r).skip0 ≠ (s.sweep r).skip0 ∨ (t.sweep r).chips ≠ (s.sweep r).chips →
            i = .start ∨ i = .tryAdvance ∨ i = .resolve r) ∧
          ((t.sweep r).poly ≠ (s.sweep r).poly ∨ (t.sweep r).offset ≠ (s.sweep r).offset ∨
              (t.sweep r).window ≠ (s.sweep r).window ∨ (t.sweep r).thr ≠ (s.sweep r).thr ∨
              (t.sweep r).dist0 ≠ (s.sweep r).dist0 ∨ (t.sweep r).dist1 ≠ (s.sweep r).dist1 →
            i = .start ∨ i = .tryAdvance ∨ i = .matchSweep r) ∧
          ((t.sweep r).loc ≠ (s.sweep r).loc →
            i = .start ∨ i = .tryAdvance ∨ i = .processLocation ∨ i = .locate r)

/-- TAPS, LANDMARK and the counter's bound are constants: no instruction changes them (10_state.md R47, R48), and none
but a step itself touches the pending transactions. -/
def Obligations.TablesAreConstant : Prop :=
  ∀ (i : Instr) (s t : State), exec i s = .next t → t.rom = s.rom ∧ t.pending = s.pending

/-- The model stops in one place: PROCESS_LOCATION, by name or as a word on the bus, in RAW_DATA_READY with a sweep
that has no polynomial.  The spec derives that this never happens (R119); the stop is the model's choice (log entry
6).  No instruction is ever refused. -/
def Obligations.OnlyAnImpossibleStateStops : Prop :=
  ∀ (i : Instr) (s : State), i.wellFormed = true →
    (∀ r, exec i s ≠ .refused r) ∧
      ((∃ f, exec i s = .fault f) ↔
        i = .processLocation ∧ s.session = .rawDataReady ∧ (s.sweep0.poly = none ∨ s.sweep1.poly = none))

/-- The session invariants I1, I2 and I4 hold at reset (45_session_orchestrator.md R125). -/
def Obligations.SessionInvariantsHoldAtReset : Prop := SessionInv State.reset

/-- EVERY STEP KEEPS the session invariants, from every state that has them (45_session_orchestrator.md R125 I1, I2,
I4). -/
def Obligations.EveryStepKeepsTheSessionInvariants : Prop :=
  ∀ s t : State, SessionInv s → step s = .next t → SessionInv t

/-- The ranges of the per-sweep registers hold at reset (10_state.md R25 to R38). -/
def Obligations.RegisterRangesHoldAtReset : Prop := RangeInv State.reset

/-- EVERY STEP KEEPS the ranges of the per-sweep registers, from every state that has them (10_state.md R25 to R38;
93_implementation_defined.md N2, N4, N5).  RSYM's clause is R30's; that CLASSIFY keeps it is log entry 8. -/
def Obligations.EveryStepKeepsTheRegisterRanges : Prop :=
  ∀ s t : State, RangeInv s → step s = .next t → RangeInv t

/-- Every program completes: from reset, whatever transactions the agents present and in whatever order, each of them
is one step with a next state, and none is left after as many steps as there are transactions
(70_reset_and_hazards.md R144, R145; 20_memory.md R59). -/
def Obligations.EveryProgramRunsToItsEnd : Prop :=
  ∀ (program : List Transaction) (k : Nat), ∃ t : State,
    Host.Core.run Sys2Proof.core k ({ State.reset with pending := program } : State) = Host.Outcome.next t ∧
      t.pending = program.drop k
end

