-- ==== Sys2Proof/Laws/State.lean ====
section
/-! SUPPORT. What each update of the state leaves and changes, field by field, so that no later proof unfolds an
update. -/

namespace Sys2Proof.Machine

@[simp] theorem sweep_zero (s : State) : s.sweep 0 = s.sweep0 := rfl
@[simp] theorem sweep_one (s : State) : s.sweep 1 = s.sweep1 := rfl
@[simp] theorem pair_zero (s : State) : s.pair 0 = s.pair0 := rfl
@[simp] theorem pair_one (s : State) : s.pair 1 = s.pair1 := rfl
@[simp] theorem setSweep_zero (s : State) (x : Sweep) : s.setSweep 0 x = { s with sweep0 := x } := rfl
@[simp] theorem setSweep_one (s : State) (x : Sweep) : s.setSweep 1 x = { s with sweep1 := x } := rfl

@[simp] theorem sweep_setSweep_same (s : State) (r : Rx) (x : Sweep) : (s.setSweep r x).sweep r = x := by
  match r with
  | 0 => rfl
  | 1 => rfl

theorem sweep_setSweep_other (s : State) {r q : Rx} (x : Sweep) (h : q ≠ r) :
    (s.setSweep r x).sweep q = s.sweep q := by
  match r, q, h with
  | 0, 0, h => exact absurd rfl h
  | 0, 1, _ => rfl
  | 1, 0, _ => rfl
  | 1, 1, h => exact absurd rfl h

section setSweep
variable (s : State) (r : Rx) (x : Sweep)

@[simp] theorem setSweep_session : (s.setSweep r x).session = s.session := by
  match r with
  | 0 => rfl
  | 1 => rfl
@[simp] theorem setSweep_pair0 : (s.setSweep r x).pair0 = s.pair0 := by
  match r with
  | 0 => rfl
  | 1 => rfl
@[simp] theorem setSweep_pair1 : (s.setSweep r x).pair1 = s.pair1 := by
  match r with
  | 0 => rfl
  | 1 => rfl
@[simp] theorem setSweep_swapped : (s.setSweep r x).swapped = s.swapped := by
  match r with
  | 0 => rfl
  | 1 => rfl
@[simp] theorem setSweep_err : (s.setSweep r x).err = s.err := by
  match r with
  | 0 => rfl
  | 1 => rfl
@[simp] theorem setSweep_errSweep : (s.setSweep r x).errSweep = s.errSweep := by
  match r with
  | 0 => rfl
  | 1 => rfl
@[simp] theorem setSweep_leaf : (s.setSweep r x).leaf = s.leaf := by
  match r with
  | 0 => rfl
  | 1 => rfl
@[simp] theorem setSweep_illegal : (s.setSweep r x).illegal = s.illegal := by
  match r with
  | 0 => rfl
  | 1 => rfl
@[simp] theorem setSweep_busErr : (s.setSweep r x).busErr = s.busErr := by
  match r with
  | 0 => rfl
  | 1 => rfl
@[simp] theorem setSweep_capRej : (s.setSweep r x).capRej = s.capRej := by
  match r with
  | 0 => rfl
  | 1 => rfl
@[simp] theorem setSweep_arg : (s.setSweep r x).arg = s.arg := by
  match r with
  | 0 => rfl
  | 1 => rfl
@[simp] theorem setSweep_res : (s.setSweep r x).res = s.res := by
  match r with
  | 0 => rfl
  | 1 => rfl
@[simp] theorem setSweep_rom : (s.setSweep r x).rom = s.rom := by
  match r with
  | 0 => rfl
  | 1 => rfl
@[simp] theorem setSweep_pending : (s.setSweep r x).pending = s.pending := by
  match r with
  | 0 => rfl
  | 1 => rfl
@[simp] theorem setSweep_replies : (s.setSweep r x).replies = s.replies := by
  match r with
  | 0 => rfl
  | 1 => rfl

end setSweep

@[simp] theorem raise_illegalCommand (s : State) : s.raise .illegalCommand = { s with illegal := true } := rfl
@[simp] theorem raise_badBusWrite (s : State) : s.raise .badBusWrite = { s with busErr := true } := rfl
@[simp] theorem raise_refusedCapture (s : State) : s.raise .refusedCapture = { s with capRej := true } := rfl
@[simp] theorem raise_sessionOutcome (s : State) (e : ErrCode) (q : Rx) :
    s.raise (.sessionOutcome e q) = { s with err := e, errSweep := q } := rfl
@[simp] theorem raise_leafOutcome (s : State) (e : LeafCode) : s.raise (.leafOutcome e) = { s with leaf := e } := rfl

section releaseBuffers
variable (s : State)

@[simp] theorem releaseBuffers_sweep0 : s.releaseBuffers.sweep0 = { s.sweep0 with full := false } := rfl
@[simp] theorem releaseBuffers_sweep1 : s.releaseBuffers.sweep1 = { s.sweep1 with full := false } := rfl
@[simp] theorem releaseBuffers_session : s.releaseBuffers.session = s.session := rfl
@[simp] theorem releaseBuffers_pair0 : s.releaseBuffers.pair0 = s.pair0 := rfl
@[simp] theorem releaseBuffers_pair1 : s.releaseBuffers.pair1 = s.pair1 := rfl
@[simp] theorem releaseBuffers_swapped : s.releaseBuffers.swapped = s.swapped := rfl
@[simp] theorem releaseBuffers_err : s.releaseBuffers.err = s.err := rfl
@[simp] theorem releaseBuffers_errSweep : s.releaseBuffers.errSweep = s.errSweep := rfl
@[simp] theorem releaseBuffers_leaf : s.releaseBuffers.leaf = s.leaf := rfl
@[simp] theorem releaseBuffers_illegal : s.releaseBuffers.illegal = s.illegal := rfl
@[simp] theorem releaseBuffers_busErr : s.releaseBuffers.busErr = s.busErr := rfl
@[simp] theorem releaseBuffers_capRej : s.releaseBuffers.capRej = s.capRej := rfl
@[simp] theorem releaseBuffers_arg : s.releaseBuffers.arg = s.arg := rfl
@[simp] theorem releaseBuffers_res : s.releaseBuffers.res = s.res := rfl
@[simp] theorem releaseBuffers_rom : s.releaseBuffers.rom = s.rom := rfl
@[simp] theorem releaseBuffers_pending : s.releaseBuffers.pending = s.pending := rfl
@[simp] theorem releaseBuffers_replies : s.releaseBuffers.replies = s.replies := rfl

end releaseBuffers

section recordMatch
variable (m : MatchResult) (x : Sweep)

@[simp] theorem recordMatch_raw : (recordMatch m x).raw = x.raw := rfl
@[simp] theorem recordMatch_full : (recordMatch m x).full = x.full := rfl
@[simp] theorem recordMatch_nsym : (recordMatch m x).nsym = x.nsym := rfl
@[simp] theorem recordMatch_runlen : (recordMatch m x).runlen = x.runlen := rfl
@[simp] theorem recordMatch_sym : (recordMatch m x).sym = x.sym := rfl
@[simp] theorem recordMatch_ovf : (recordMatch m x).ovf = x.ovf := rfl
@[simp] theorem recordMatch_excl : (recordMatch m x).excl = x.excl := rfl
@[simp] theorem recordMatch_rsym : (recordMatch m x).rsym = x.rsym := rfl
@[simp] theorem recordMatch_skip0 : (recordMatch m x).skip0 = x.skip0 := rfl
@[simp] theorem recordMatch_chips : (recordMatch m x).chips = x.chips := rfl
@[simp] theorem recordMatch_loc : (recordMatch m x).loc = x.loc := rfl
@[simp] theorem recordMatch_poly : (recordMatch m x).poly = m.poly := rfl

end recordMatch

section resolveSweep
variable (x : Sweep)

@[simp] theorem resolveSweep_raw : (resolveSweep x).raw = x.raw := by rw [resolveSweep]
@[simp] theorem resolveSweep_full : (resolveSweep x).full = x.full := by rw [resolveSweep]
@[simp] theorem resolveSweep_nsym : (resolveSweep x).nsym = x.nsym := by rw [resolveSweep]
@[simp] theorem resolveSweep_runlen : (resolveSweep x).runlen = x.runlen := by rw [resolveSweep]
@[simp] theorem resolveSweep_sym : (resolveSweep x).sym = x.sym := by rw [resolveSweep]
@[simp] theorem resolveSweep_ovf : (resolveSweep x).ovf = x.ovf := by rw [resolveSweep]
@[simp] theorem resolveSweep_excl : (resolveSweep x).excl = x.excl := by rw [resolveSweep]
@[simp] theorem resolveSweep_poly : (resolveSweep x).poly = x.poly := by rw [resolveSweep]
@[simp] theorem resolveSweep_offset : (resolveSweep x).offset = x.offset := by rw [resolveSweep]
@[simp] theorem resolveSweep_window : (resolveSweep x).window = x.window := by rw [resolveSweep]
@[simp] theorem resolveSweep_thr : (resolveSweep x).thr = x.thr := by rw [resolveSweep]
@[simp] theorem resolveSweep_dist0 : (resolveSweep x).dist0 = x.dist0 := by rw [resolveSweep]
@[simp] theorem resolveSweep_dist1 : (resolveSweep x).dist1 = x.dist1 := by rw [resolveSweep]
@[simp] theorem resolveSweep_loc : (resolveSweep x).loc = x.loc := by rw [resolveSweep]

end resolveSweep

section classifySweep
variable (x : Sweep)

@[simp] theorem resolvedBelow_getElem (n : Nat) (v : Vector Bool 128) (j : Nat) (hj : j < 128) :
    (resolvedBelow n v)[j] = (decide (j < n) && v[j]) := by
  rw [resolvedBelow, Vector.getElem_ofFn]
  rfl

/-- Both paths of classify(r) write the same registers: five of 41_bit_classifier.md R81, and RSYM past the new NSYM
(log entry 8). -/
theorem recordRuns_frame (runs : List Nat) :
    recordRuns runs x =
      { x with
        nsym := (recordRuns runs x).nsym
        runlen := (recordRuns runs x).runlen
        sym := (recordRuns runs x).sym
        ovf := (recordRuns runs x).ovf
        excl := (recordRuns runs x).excl
        rsym := (recordRuns runs x).rsym } := by
  unfold recordRuns
  split <;> rfl

@[simp] theorem classifySweep_raw : (classifySweep x).raw = x.raw := by
  rw [classifySweep, recordRuns_frame]
@[simp] theorem classifySweep_full : (classifySweep x).full = x.full := by
  rw [classifySweep, recordRuns_frame]
/-- RSYM after a classification: as before below the new NSYM, 0 from it on (10_state.md R30; log entry 8). -/
theorem classifySweep_rsym :
    (classifySweep x).rsym = resolvedBelow (classifySweep x).nsym.toNat x.rsym := by
  rw [classifySweep, recordRuns]
  split
  · rfl
  · rename_i h
    simp only [Config.symCap] at h
    show resolvedBelow _ _ = resolvedBelow (BitVec.ofNat 8 _).toNat _
    rw [BitVec.toNat_ofNat, Nat.mod_eq_of_lt (by omega)]
@[simp] theorem classifySweep_skip0 : (classifySweep x).skip0 = x.skip0 := by
  rw [classifySweep, recordRuns_frame]
@[simp] theorem classifySweep_chips : (classifySweep x).chips = x.chips := by
  rw [classifySweep, recordRuns_frame]
@[simp] theorem classifySweep_poly : (classifySweep x).poly = x.poly := by
  rw [classifySweep, recordRuns_frame]
@[simp] theorem classifySweep_offset : (classifySweep x).offset = x.offset := by
  rw [classifySweep, recordRuns_frame]
@[simp] theorem classifySweep_window : (classifySweep x).window = x.window := by
  rw [classifySweep, recordRuns_frame]
@[simp] theorem classifySweep_thr : (classifySweep x).thr = x.thr := by
  rw [classifySweep, recordRuns_frame]
@[simp] theorem classifySweep_dist0 : (classifySweep x).dist0 = x.dist0 := by
  rw [classifySweep, recordRuns_frame]
@[simp] theorem classifySweep_dist1 : (classifySweep x).dist1 = x.dist1 := by
  rw [classifySweep, recordRuns_frame]
@[simp] theorem classifySweep_loc : (classifySweep x).loc = x.loc := by
  rw [classifySweep, recordRuns_frame]

end classifySweep

@[simp] theorem resetWith_rom (rom : Rom) : (State.resetWith rom).rom = rom := rfl
@[simp] theorem reset_rom : State.reset.rom = Rom.build := rfl
@[simp] theorem hardwareReset_rom (s : State) : (hardwareReset s).rom = s.rom := rfl
@[simp] theorem hardwareReset_pending (s : State) : (hardwareReset s).pending = s.pending := rfl
@[simp] theorem hardwareReset_replies (s : State) : (hardwareReset s).replies = s.replies := rfl
@[simp] theorem hardwareReset_session (s : State) : (hardwareReset s).session = .idle := rfl

end Sys2Proof.Machine
end

