-- ==== Sys2Proof/Laws/Ops.lean ====
section
/-! SUPPORT. What each shared operation can do, said once, so that later proofs cite it and do not unfold it. -/

namespace Sys2Proof.Machine

/-- A capture is accepted, and writes RAW[r] and FULL[r], or it sets CAPREJ alone (20_memory.md R57). -/
theorem deliver_cases (s : State) (r : Rx) (d : RawBuffer) :
    (captureArmed s = true ∧ (s.sweep r).full = false ∧
        deliver s r d = s.setSweep r { s.sweep r with raw := d, full := true }) ∨
      (¬(captureArmed s = true ∧ (s.sweep r).full = false) ∧ deliver s r d = { s with capRej := true }) := by
  unfold deliver
  split
  · rename_i h
    simp only [Bool.and_eq_true, Bool.not_eq_true'] at h
    exact .inl ⟨h.1, h.2, rfl⟩
  · rename_i h
    simp only [Bool.and_eq_true, Bool.not_eq_true'] at h
    exact .inr ⟨h, rfl⟩

/-- Capture is armed in RUNNING and in LOCATION_READY (45_session_orchestrator.md R116). -/
theorem captureArmed_iff (s : State) :
    captureArmed s = true ↔ s.session = .running ∨ s.session = .locationReady := by
  simp [captureArmed]

/-- Both buffers are delivered (45_session_orchestrator.md R116). -/
theorem buffersReady_iff (s : State) :
    buffersReady s = true ↔ s.sweep0.full = true ∧ s.sweep1.full = true := by
  simp [buffersReady]

/-- In IDLE a diagnostic command takes its effect. -/
theorem diagnostic_idle {s : State} (h : s.session = .idle) (x : State) : diagnostic s x = x := if_pos h

/-- Outside IDLE a diagnostic command is rejected (30_encoding.md R70). -/
theorem diagnostic_busy {s : State} (h : s.session ≠ .idle) (x : State) :
    diagnostic s x = { s with illegal := true } := if_neg h

/-- A leaf command's end writes RES and LEAF alone. -/
theorem leafResult_eq (s : State) (v : BitVec 64) (c : LeafCode) :
    leafResult s v c = { s with res := v, leaf := c } := rfl

/-- ERR reports sweep 0's failure, else sweep 1's, else none (60_exceptions.md R129). -/
theorem firstFailure_cases (e0 e1 : ErrCode) :
    (e0 ≠ .none ∧ firstFailure e0 e1 = (e0, 0)) ∨ (e0 = .none ∧ e1 ≠ .none ∧ firstFailure e0 e1 = (e1, 1)) ∨
      (e0 = .none ∧ e1 = .none ∧ firstFailure e0 e1 = (.none, 0)) := by
  cases e0 <;> cases e1 <;> decide

/-- PAIR after ordering: ascending, each result whole (45_session_orchestrator.md R120). -/
theorem orderPair_cases (s : State) :
    (s.sweep1.loc < s.sweep0.loc ∧
        orderPair s = { s with pair0 := sweepResult s.sweep1, pair1 := sweepResult s.sweep0, swapped := true }) ∨
      (¬s.sweep1.loc < s.sweep0.loc ∧
        orderPair s = { s with pair0 := sweepResult s.sweep0, pair1 := sweepResult s.sweep1, swapped := false }) := by
  unfold orderPair
  split
  · exact .inl ⟨‹_›, rfl⟩
  · exact .inr ⟨‹_›, rfl⟩

/-- A decoded sweep either overflowed, with its derived registers at their reset values, or was resolved and matched
(45_session_orchestrator.md R117). -/
theorem decodeSweep_cases (rom : Rom) (x : Sweep) :
    ((classifySweep x).ovf = true ∧ decodeSweep rom x = discardDerived (classifySweep x) ∧
        decodeOutcome (decodeSweep rom x) = .overflow) ∨
      ((classifySweep x).ovf = false ∧ decodeSweep rom x = resolveAndMatch rom (classifySweep x) ∧
        decodeOutcome (decodeSweep rom x) =
          if (matchChips rom (resolveSweep (classifySweep x)).chips).poly.isNone then .matchFail else .none) := by
  rcases h : (classifySweep x).ovf with _ | _
  · refine .inr ⟨rfl, ?_, ?_⟩
    · simp [decodeSweep, h]
    · simp only [decodeSweep, h, Bool.false_eq_true, if_false, decodeOutcome, resolveAndMatch, recordMatch_ovf,
        resolveSweep_ovf, recordMatch_poly]
  · refine .inl ⟨rfl, ?_, ?_⟩
    · simp [decodeSweep, h]
    · simp [decodeSweep, decodeOutcome, discardDerived, h]

/-- Decoding reads the raw bits and leaves them (45_session_orchestrator.md R117). -/
@[simp] theorem decodeSweep_raw (rom : Rom) (x : Sweep) : (decodeSweep rom x).raw = x.raw := by
  rcases decodeSweep_cases rom x with ⟨-, e, -⟩ | ⟨-, e, -⟩ <;> rw [e] <;> simp [discardDerived, resolveAndMatch]

/-- Decoding leaves FULL (45_session_orchestrator.md R117). -/
@[simp] theorem decodeSweep_full (rom : Rom) (x : Sweep) : (decodeSweep rom x).full = x.full := by
  rcases decodeSweep_cases rom x with ⟨-, e, -⟩ | ⟨-, e, -⟩ <;> rw [e] <;> simp [discardDerived, resolveAndMatch]

/-- What a TRY_ADVANCE that decodes can leave (45_session_orchestrator.md R118). -/
theorem advance_cases (s : State) :
    ((firstFailure (decodeOutcome (decodeSweep s.rom s.sweep0)) (decodeOutcome (decodeSweep s.rom s.sweep1))).1 =
          .none ∧
        advance s =
          { s with
            session := .rawDataReady
            sweep0 := decodeSweep s.rom s.sweep0
            sweep1 := decodeSweep s.rom s.sweep1
            err := .none
            errSweep :=
              (firstFailure (decodeOutcome (decodeSweep s.rom s.sweep0))
                (decodeOutcome (decodeSweep s.rom s.sweep1))).2 }) ∨
      ((firstFailure (decodeOutcome (decodeSweep s.rom s.sweep0)) (decodeOutcome (decodeSweep s.rom s.sweep1))).1 ≠
          .none ∧
        advance s =
          { s with
            session := .running
            sweep0 := { decodeSweep s.rom s.sweep0 with full := false }
            sweep1 := { decodeSweep s.rom s.sweep1 with full := false }
            err :=
              (firstFailure (decodeOutcome (decodeSweep s.rom s.sweep0))
                (decodeOutcome (decodeSweep s.rom s.sweep1))).1
            errSweep :=
              (firstFailure (decodeOutcome (decodeSweep s.rom s.sweep0))
                (decodeOutcome (decodeSweep s.rom s.sweep1))).2 }) := by
  unfold advance
  dsimp only
  split
  · rename_i h
    exact .inl ⟨h, by rw [← h]; rfl⟩
  · exact .inr ⟨‹_›, rfl⟩

/-- A diagnostic command takes its effect in IDLE and is rejected elsewhere (30_encoding.md R70). -/
theorem diagnostic_cases (s x : State) :
    (s.session = .idle ∧ diagnostic s x = x) ∨
      (s.session ≠ .idle ∧ diagnostic s x = { s with illegal := true }) := by
  by_cases h : s.session = .idle
  · exact .inl ⟨h, diagnostic_idle h x⟩
  · exact .inr ⟨h, diagnostic_busy h x⟩

/-- TRY_ADVANCE decodes, or is a no-op (45_session_orchestrator.md R118). -/
theorem execTryAdvance_cases (s : State) :
    (captureArmed s = true ∧ buffersReady s = true ∧ execTryAdvance s = .next (advance s)) ∨
      (¬(captureArmed s = true ∧ buffersReady s = true) ∧ execTryAdvance s = .next s) := by
  unfold execTryAdvance
  by_cases h : captureArmed s = true ∧ buffersReady s = true
  · exact .inl ⟨h.1, h.2, by rw [if_pos (by rw [h.1, h.2]; rfl)]⟩
  · exact .inr ⟨h, by rw [if_neg (by rwa [Bool.and_eq_true])]⟩

/-- PROCESS_LOCATION is a no-op, locates both sweeps, or stops for want of a polynomial
(45_session_orchestrator.md R119, R121). -/
theorem execProcessLocation_cases (s : State) :
    (s.session ≠ .rawDataReady ∧ execProcessLocation s = .next s) ∨
      (∃ i0 i1, s.session = .rawDataReady ∧ s.sweep0.poly = some i0 ∧ s.sweep1.poly = some i1 ∧
        execProcessLocation s =
          .next (finishLocation s (locateSeed s.rom i0 s.sweep0) (locateSeed s.rom i1 s.sweep1))) ∨
      (s.session = .rawDataReady ∧ (s.sweep0.poly = none ∨ s.sweep1.poly = none) ∧
        execProcessLocation s = .fault .noPolynomialToLocate) := by
  by_cases h : s.session = .rawDataReady
  · rcases h0 : s.sweep0.poly with _ | i0
    · exact .inr (.inr ⟨h, .inl rfl, by simp [execProcessLocation, h, h0]⟩)
    · rcases h1 : s.sweep1.poly with _ | i1
      · exact .inr (.inr ⟨h, .inr rfl, by simp [execProcessLocation, h, h0, h1]⟩)
      · exact .inr (.inl ⟨i0, i1, h, rfl, rfl, by simp [execProcessLocation, h, h0, h1]⟩)
  · exact .inl ⟨h, by simp [execProcessLocation, h]⟩

/-- A location step in which a sweep timed out releases both buffers and keeps the pair
(45_session_orchestrator.md R121). -/
theorem finishLocation_timeout (s : State) {c0 c1 : Option Word} (h : c0 = none ∨ c1 = none) :
    finishLocation s c0 c1 =
      { s with
        session := .running
        sweep0 := { s.sweep0 with loc := locOf c0, full := false }
        sweep1 := { s.sweep1 with loc := locOf c1, full := false }
        err := .locTimeout
        errSweep := if c0 = none then 0 else 1 } := by
  rcases c0 with _ | l0 <;> rcases c1 with _ | l1
  · simp [finishLocation, firstFailure, locateOutcome, State.releaseBuffers]
  · simp [finishLocation, firstFailure, locateOutcome, State.releaseBuffers]
  · simp [finishLocation, firstFailure, locateOutcome, State.releaseBuffers]
  · simp at h

/-- A location step in which both sweeps were located is the ordering of the two results
(45_session_orchestrator.md R120, R121). -/
theorem finishLocation_located (s : State) (l0 l1 : Word) :
    finishLocation s (some l0) (some l1) =
      { orderPair
          { s with
            sweep0 := { s.sweep0 with loc := l0, full := false }
            sweep1 := { s.sweep1 with loc := l1, full := false } } with
        session := .locationReady
        err := .none
        errSweep := 0 } := by
  simp [finishLocation, firstFailure, locateOutcome, State.releaseBuffers, locOf]

/-- The walk has ended at REF (44_reverse_counter.md R109). -/
theorem reverseWalk_ref (rom : Rom) (p : PolyIx) (fuel : Nat) (count : Word) :
    reverseWalk rom p fuel Config.ref count = some count := by
  cases fuel <;> simp [reverseWalk]

/-- The walk meets a landmark: its steps are added and the walk ends (44_reverse_counter.md R109). -/
theorem reverseWalk_landmark (rom : Rom) (p : PolyIx) (fuel k : Nat) {buf : Lfsr} (count : Word)
    (h : buf ≠ Config.ref) (hk : landmarkHit rom p buf = some k) :
    reverseWalk rom p (fuel + 1) buf count = some (count + landmarkSteps k) := by
  rw [reverseWalk, if_neg h, hk]
  simp only [reverseWalk_ref]
  rw [BitVec.sub_add_cancel]

/-- The walk meets neither: one backward step (44_reverse_counter.md R109). -/
theorem reverseWalk_back (rom : Rom) (p : PolyIx) (fuel : Nat) {buf : Lfsr} (count : Word)
    (h : buf ≠ Config.ref) (hk : landmarkHit rom p buf = none) :
    reverseWalk rom p (fuel + 1) buf count = reverseWalk rom p fuel (back (rom.tap p) buf) (count + 1) := by
  rw [reverseWalk, if_neg h, hk]

/-- A step applies the instruction the next transaction is. -/
theorem step_cons (s : State) {t : Transaction} {rest : List Transaction} (h : s.pending = t :: rest) :
    step s = exec (decode t) { s with pending := rest } := by
  simp [step, h]

/-- With no transaction pending a step changes nothing. -/
theorem step_nil (s : State) (h : s.pending = []) : step s = .next s := by
  simp [step, h]

end Sys2Proof.Machine
end

