-- ==== Sys2Proof/Laws/Counter.lean ====
section
/-! SUPPORT. What the walk of the reverse counter can do (44_reverse_counter.md R109, R110), and why it is short: a
walk that ends meets no 17-bit state twice. -/

namespace Sys2Proof.Machine

/-- A state at which the walk ends: REF or a landmark (44_reverse_counter.md R109). -/
def endsWalk (rom : Rom) (p : PolyIx) (b : Lfsr) : Prop := b = Config.ref ∨ ∃ k : Fin 16, b = rom.landmarkAt p k

/-- The landmark that is hit, and those before it that are not. -/
theorem landmarkHit_some {rom : Rom} {p : PolyIx} {b : Lfsr} {k : Nat} (h : landmarkHit rom p b = some k) :
    ∃ hk : k < 16, b = rom.landmarkAt p ⟨k, hk⟩ ∧ ∀ j : Fin 16, j.val < k → b ≠ rom.landmarkAt p j := by
  obtain ⟨hk, hb, hj⟩ := List.findIdx?_eq_some_iff_getElem.1 h
  refine ⟨by simpa using hk, ?_, fun j hlt e => ?_⟩
  · simpa [Rom.landmarkAt] using (beq_iff_eq.1 hb).symm
  · exact hj j.val hlt (by simpa [Rom.landmarkAt] using e.symm)

/-- No landmark is hit. -/
theorem landmarkHit_none {rom : Rom} {p : PolyIx} {b : Lfsr} :
    landmarkHit rom p b = none ↔ ∀ k : Fin 16, b ≠ rom.landmarkAt p k := by
  unfold landmarkHit
  rw [List.findIdx?_eq_none_iff]
  simp only [Vector.mem_toList_iff, Vector.mem_iff_getElem, beq_eq_false_iff_ne, forall_exists_index,
    Rom.landmarkAt]
  exact ⟨fun h k e => h _ k.val k.isLt rfl e.symm, fun h x i hi e e' => h ⟨i, hi⟩ (e'.symm.trans e.symm)⟩

/-- What a walk that does not time out has done: n backward steps to a state that ends it, the first on its way, and
the 8192 k steps of a landmark (44_reverse_counter.md R109). -/
theorem reverseWalk_some (rom : Rom) (p : PolyIx) :
    ∀ (fuel : Nat) (b : Lfsr) (c x : Word), reverseWalk rom p fuel b c = some x →
      ∃ (n : Nat) (k : Fin 16), n ≤ fuel ∧ x = c + BitVec.ofNat 32 (n + 8192 * k.val) ∧
        (∀ j, j < n → ¬endsWalk rom p ((back (rom.tap p))^[j] b)) ∧
        (((back (rom.tap p))^[n] b = Config.ref ∧ k = 0) ∨
          ((back (rom.tap p))^[n] b = rom.landmarkAt p k ∧ (back (rom.tap p))^[n] b ≠ Config.ref))
  | 0, b, c, x, h => by
    unfold reverseWalk at h
    split at h
    · cases h
      exact ⟨0, 0, le_rfl, by simp, by simp, .inl ⟨‹_›, rfl⟩⟩
    · cases h
  | fuel + 1, b, c, x, h => by
    by_cases hb : b = Config.ref
    · subst hb
      rw [reverseWalk_ref] at h
      cases h
      exact ⟨0, 0, by omega, by simp, by simp, .inl ⟨rfl, rfl⟩⟩
    · rcases hk : landmarkHit rom p b with _ | k
      · rw [reverseWalk_back rom p fuel c hb hk] at h
        obtain ⟨n, k, hn, hx, hj, he⟩ := reverseWalk_some rom p fuel _ _ x h
        refine ⟨n + 1, k, by omega, ?_, fun j hlt => ?_, he⟩
        · rw [hx, BitVec.add_assoc]
          congr 1
          apply BitVec.eq_of_toNat_eq
          simp
          omega
        · cases j with
          | zero =>
            rintro (e | ⟨k, e⟩)
            · exact hb e
            · exact landmarkHit_none.1 hk k e
          | succ j => exact hj j (by omega)
      · rw [reverseWalk_landmark rom p fuel k c hb hk] at h
        cases h
        obtain ⟨hk16, he, -⟩ := landmarkHit_some hk
        exact ⟨0, ⟨k, hk16⟩, by omega, by simp [landmarkSteps], by simp, .inr ⟨he, hb⟩⟩

/-- The first state of an orbit that has a property comes before every 17-bit state has been met. -/
theorem first_hit_lt (f : Lfsr → Lfsr) (Q : Lfsr → Prop) (b : Lfsr) {n : Nat} (hn : Q (f^[n] b))
    (hj : ∀ j, j < n → ¬Q (f^[j] b)) : n < 131072 := by
  have hinj : Function.Injective fun i : Fin (n + 1) => (f^[i.val] b).toFin := by
    intro i j h
    have h : f^[i.val] b = f^[j.val] b := BitVec.toFin_inj.1 h
    have key : ∀ u v : Nat, u < v → v ≤ n → f^[u] b = f^[v] b → False := fun u v huv hv e => by
      refine hj (n - v + u) (by omega) ?_
      rw [Function.iterate_add_apply, e, ← Function.iterate_add_apply, Nat.sub_add_cancel hv]
      exact hn
    rcases lt_trichotomy i.val j.val with lt | eq | gt
    · exact (key _ _ lt (by omega) h).elim
    · exact Fin.ext eq
    · exact (key _ _ gt (by omega) h.symm).elim
  have := Fintype.card_le_of_injective _ hinj
  simpa using this

end Sys2Proof.Machine
end

