-- ==== Sys2Proof/Laws/Decode.lean ====
section
/-! SUPPORT. What the decoder and the encoder can do, said once: a word is its five fields, a command form accepts a
word exactly when its unused fields are 0, a header is its two fields, and a capture is its receiver and its bytes. -/

namespace Sys2Proof

/-- A word is its five fields (30_encoding.md R66). -/
theorem word_eq_fields (w : Word) : w = zField w ++ nField w ++ pField w ++ rField w ++ opField w := by
  apply BitVec.eq_of_getLsbD_eq
  intro i hi
  show w.getLsbD i =
    (((((zField w ++ nField w) ++ pField w) ++ rField w) ++ opField w) : BitVec (15 + 6 + 2 + 1 + 8)).getLsbD i
  simp only [zField, nField, pField, rField, opField]
  interval_cases i <;> simp only [BitVec.getLsbD_append, BitVec.getLsbD_extractLsb'] <;> norm_num

/-- A form answers its instruction exactly when its unused fields are 0 (30_encoding.md R70). -/
theorem ifUnusedZero_ok {b : Bool} {w : Word} {i j : Instr} :
    ifUnusedZero b w i = .ok j ↔ b = true ∧ i = j := by
  unfold ifUnusedZero
  split <;> simp_all

theorem formBare_ok {w : Word} {i j : Instr} :
    formBare w i = .ok j ↔ (rField w = 0 ∧ pField w = 0 ∧ nField w = 0 ∧ zField w = 0) ∧ i = j := by
  rw [formBare, ifUnusedZero_ok]
  simp only [Bool.and_eq_true, beq_iff_eq, and_assoc]

theorem formR_ok {w : Word} {i j : Instr} :
    formR w i = .ok j ↔ (pField w = 0 ∧ nField w = 0 ∧ zField w = 0) ∧ i = j := by
  rw [formR, ifUnusedZero_ok]
  simp only [Bool.and_eq_true, beq_iff_eq, and_assoc]

theorem formP_ok {w : Word} {i j : Instr} :
    formP w i = .ok j ↔ (rField w = 0 ∧ nField w = 0 ∧ zField w = 0) ∧ i = j := by
  rw [formP, ifUnusedZero_ok]
  simp only [Bool.and_eq_true, beq_iff_eq, and_assoc]

theorem formPN_ok {w : Word} {i j : Instr} :
    formPN w i = .ok j ↔ (rField w = 0 ∧ zField w = 0) ∧ i = j := by
  rw [formPN, ifUnusedZero_ok]
  simp only [Bool.and_eq_true, beq_iff_eq]

/-- The fifteen ways a word can be accepted, by its opcode (30_encoding.md R68). -/
theorem decodeCommand_cases {w : Word} {i : Instr} (h : decodeCommand w = .ok i) :
    (opField w = 0x01#8 ∧ formBare w .start = .ok i) ∨ (opField w = 0x02#8 ∧ formBare w .stop = .ok i) ∨
      (opField w = 0x03#8 ∧ formBare w .reset = .ok i) ∨ (opField w = 0x04#8 ∧ formBare w .tryAdvance = .ok i) ∨
      (opField w = 0x05#8 ∧ formBare w .processLocation = .ok i) ∨
      (opField w = 0x10#8 ∧ formR w (.classify (sweepOperand w)) = .ok i) ∨
      (opField w = 0x11#8 ∧ formR w (.resolve (sweepOperand w)) = .ok i) ∨
      (opField w = 0x12#8 ∧ formR w (.matchSweep (sweepOperand w)) = .ok i) ∨
      (opField w = 0x13#8 ∧ formR w (.locate (sweepOperand w)) = .ok i) ∨
      (opField w = 0x20#8 ∧ formBare w .popcount = .ok i) ∨
      (opField w = 0x21#8 ∧ formP w (.lfsrFwd (polyOperand w)) = .ok i) ∨
      (opField w = 0x22#8 ∧ formP w (.lfsrBack (polyOperand w)) = .ok i) ∨
      (opField w = 0x23#8 ∧ formPN w (.polyCheck (polyOperand w) (stepsOperand w)) = .ok i) ∨
      (opField w = 0x24#8 ∧ formP w (.reverseCount (polyOperand w)) = .ok i) ∨
      (opField w = 0x25#8 ∧ formBare w .matchArg = .ok i) := by
  unfold decodeCommand at h
  by_cases h1 : opField w = 0x01#8
  · exact .inl ⟨h1, by rwa [if_pos h1] at h⟩
  rw [if_neg h1] at h
  clear h1
  right
  by_cases h1 : opField w = 0x02#8
  · exact .inl ⟨h1, by rwa [if_pos h1] at h⟩
  rw [if_neg h1] at h
  clear h1
  right
  by_cases h1 : opField w = 0x03#8
  · exact .inl ⟨h1, by rwa [if_pos h1] at h⟩
  rw [if_neg h1] at h
  clear h1
  right
  by_cases h1 : opField w = 0x04#8
  · exact .inl ⟨h1, by rwa [if_pos h1] at h⟩
  rw [if_neg h1] at h
  clear h1
  right
  by_cases h1 : opField w = 0x05#8
  · exact .inl ⟨h1, by rwa [if_pos h1] at h⟩
  rw [if_neg h1] at h
  clear h1
  right
  by_cases h1 : opField w = 0x10#8
  · exact .inl ⟨h1, by rwa [if_pos h1] at h⟩
  rw [if_neg h1] at h
  clear h1
  right
  by_cases h1 : opField w = 0x11#8
  · exact .inl ⟨h1, by rwa [if_pos h1] at h⟩
  rw [if_neg h1] at h
  clear h1
  right
  by_cases h1 : opField w = 0x12#8
  · exact .inl ⟨h1, by rwa [if_pos h1] at h⟩
  rw [if_neg h1] at h
  clear h1
  right
  by_cases h1 : opField w = 0x13#8
  · exact .inl ⟨h1, by rwa [if_pos h1] at h⟩
  rw [if_neg h1] at h
  clear h1
  right
  by_cases h1 : opField w = 0x20#8
  · exact .inl ⟨h1, by rwa [if_pos h1] at h⟩
  rw [if_neg h1] at h
  clear h1
  right
  by_cases h1 : opField w = 0x21#8
  · exact .inl ⟨h1, by rwa [if_pos h1] at h⟩
  rw [if_neg h1] at h
  clear h1
  right
  by_cases h1 : opField w = 0x22#8
  · exact .inl ⟨h1, by rwa [if_pos h1] at h⟩
  rw [if_neg h1] at h
  clear h1
  right
  by_cases h1 : opField w = 0x23#8
  · exact .inl ⟨h1, by rwa [if_pos h1] at h⟩
  rw [if_neg h1] at h
  clear h1
  right
  by_cases h1 : opField w = 0x24#8
  · exact .inl ⟨h1, by rwa [if_pos h1] at h⟩
  rw [if_neg h1] at h
  clear h1
  right
  by_cases h1 : opField w = 0x25#8
  · exact ⟨h1, by rwa [if_pos h1] at h⟩
  rw [if_neg h1] at h
  cases h

theorem headerWrite_busHeader (w : Bool) (a : Addr) : headerWrite (busHeader w a) = w := by
  rw [headerWrite, busHeader, BitVec.getLsbD_append]
  cases w <;> rfl

theorem headerAddr_busHeader (w : Bool) (a : Addr) : headerAddr (busHeader w a) = a := by
  apply BitVec.eq_of_getLsbD_eq
  intro i hi
  rw [headerAddr, BitVec.getLsbD_extractLsb', busHeader, BitVec.getLsbD_append]
  simp [hi]

/-- Reading bytes as one number, most significant first, from an accumulator. -/
theorem foldl_bytes (l : List Byte) (a : Nat) :
    l.foldl (fun acc b => 256 * acc + b.toNat) a =
        a * 256 ^ l.length + l.foldl (fun acc b => 256 * acc + b.toNat) 0 ∧
      l.foldl (fun acc b => 256 * acc + b.toNat) 0 < 256 ^ l.length := by
  induction l generalizing a with
  | nil => simp
  | cons b l ih =>
    have hb := b.isLt
    simp only [List.foldl_cons, List.length_cons]
    rw [(ih (256 * a + b.toNat)).1, (ih (256 * 0 + b.toNat)).1]
    have hlt := (ih 0).2
    constructor
    · ring
    · simp only [Nat.mul_zero, Nat.zero_add, pow_succ] at *
      have hb' : b.toNat ≤ 255 := by omega
      nlinarith [Nat.mul_le_mul_right (256 ^ l.length) hb']

/-- Byte number i of bytes read as one number. -/
theorem byte_of_foldl (l : List Byte) (acc : Nat) (i : Nat) (h : i < l.length) :
    l.foldl (fun acc b => 256 * acc + b.toNat) acc / 256 ^ (l.length - 1 - i) % 256 = (l[i]).toNat := by
  induction l generalizing acc i with
  | nil => simp at h
  | cons b l ih =>
    cases i with
    | zero =>
      simp only [List.foldl_cons, List.length_cons, List.getElem_cons_zero]
      rw [(foldl_bytes l _).1]
      have hlt := (foldl_bytes l 0).2
      rw [show l.length + 1 - 1 - 0 = l.length by omega, Nat.mul_comm, Nat.mul_add_div (by positivity),
        Nat.div_eq_of_lt hlt]
      have hb := b.isLt
      omega
    | succ i =>
      simp only [List.foldl_cons, List.length_cons, List.getElem_cons_succ]
      rw [← ih (256 * acc + b.toNat) i (by simpa using h)]
      congr 3
      omega

/-- The bytes of a capture are 1024 bits. -/
theorem captureNumber_lt (d : RawBuffer) : captureNumber d < 2 ^ 1024 := by
  have h := (foldl_bytes d.toList 0).2
  rw [Vector.length_toList] at h
  rwa [show (256 : Nat) = 2 ^ 8 from rfl, ← pow_mul] at h

/-- A capture is 1025 bits (30_encoding.md R65). -/
theorem captureMessage_lt (r : Rx) (d : RawBuffer) : captureMessage r d < 2 ^ 1025 := by
  have hlt := captureNumber_lt d
  have hr := r.isLt
  have hp : ∀ k : Nat, 2 ^ (k + 1) = 2 * 2 ^ k := fun k => by rw [pow_succ, Nat.mul_comm]
  unfold captureMessage
  rw [Nat.shiftLeft_eq, hp 1024]
  generalize 2 ^ 1024 = M at *
  generalize r.val = q at *
  clear hp
  nlinarith

end Sys2Proof
end

