-- ==== Sys2Proof/Laws/Lfsr.lean ====
section
/-! SUPPORT. Parity and the LFSR steps are linear (00_scope.md R19; 43_polynomial_matcher.md R93;
44_reverse_counter.md R106), so a power of a step is known from where it takes the 17 single bits. -/

namespace Sys2Proof.Machine

/-- Counting modulo 2 is linear in the predicate. -/
theorem countP_xor_odd (p q : Nat → Bool) (l : List Nat) :
    (l.countP (fun i => p i ^^ q i) % 2 == 1) = ((l.countP p % 2 == 1) ^^ (l.countP q % 2 == 1)) := by
  have h : (l.countP fun i => p i ^^ q i) % 2 = (l.countP p + l.countP q) % 2 := by
    induction l with
    | nil => rfl
    | cons i l ih =>
      simp only [List.countP_cons]
      cases p i <;> cases q i <;> simp <;> omega
  rw [h]
  rcases Nat.mod_two_eq_zero_or_one (l.countP p) with hp | hp <;>
    rcases Nat.mod_two_eq_zero_or_one (l.countP q) with hq | hq <;> rw [Nat.add_mod, hp, hq] <;> rfl

/-- parity(a XOR b) (00_scope.md R19). -/
theorem parity_xor {w : Nat} (a b : BitVec w) : parity (a ^^^ b) = (parity a ^^ parity b) := by
  simp only [parity, popcount, ← countP_xor_odd]
  congr 3
  funext i
  simp

/-- Masking is linear. -/
theorem xor_and_lfsr (a b t : Lfsr) : (a ^^^ b) &&& t = (a &&& t) ^^^ (b &&& t) := by
  ext i hi
  simp [Bool.and_xor_distrib_right]

/-- fwd is linear (43_polynomial_matcher.md R93). -/
theorem fwd_xor (t a b : Lfsr) : fwd t (a ^^^ b) = fwd t a ^^^ fwd t b := by
  simp only [fwd, xor_and_lfsr, parity_xor]
  cases parity (a &&& t) <;> cases parity (b &&& t) <;> ext i hi <;> cases i <;> simp

/-- The bits of a state stepped back: shifted down, with the bit that must have been dropped on top
(44_reverse_counter.md R106). -/
theorem back_getElem (t b : Lfsr) (i : Nat) (hi : i < 17) :
    (back t b)[i] = if i = 16 then b.getLsbD 0 ^^ parity (b >>> 1 &&& t) else b.getLsbD (i + 1) := by
  have h : ∀ top : Bool, (b >>> 1 ||| ((BitVec.ofBool top).setWidth 17 <<< 16) : Lfsr)[i] =
      if i = 16 then top else b.getLsbD (i + 1) := by
    intro top
    by_cases h : i = 16
    · subst h
      cases top <;> simp
    · have hlt : i < 16 := by omega
      rw [BitVec.getElem_or, BitVec.getElem_shiftLeft]
      simp [h, hlt, Nat.add_comm 1 i]
  exact h _

/-- back is linear (44_reverse_counter.md R106). -/
theorem back_xor (t a b : Lfsr) : back t (a ^^^ b) = back t a ^^^ back t b := by
  have h : (a ^^^ b) >>> 1 = a >>> 1 ^^^ b >>> 1 := by
    ext i hi
    simp
  ext i hi
  simp only [back_getElem, BitVec.getElem_xor, h, xor_and_lfsr, parity_xor, BitVec.getLsbD_xor]
  split
  · cases a.getLsbD 0 <;> cases b.getLsbD 0 <;> simp
  · rfl

/-- The value of a linear function at b, from its values at the 17 single bits. -/
def combine (columns : List Lfsr) (b : Lfsr) : Lfsr :=
  (List.range 17).foldl (fun x i => if b.getLsbD i then x ^^^ columns.getD i 0 else x) 0

/-- The n low bits of a state. -/
def lowBits (b : Lfsr) (n : Nat) : Lfsr := b &&& BitVec.ofNat 17 (2 ^ n - 1)

/-- The bits of `lowBits`. -/
theorem lowBits_getLsbD (b : Lfsr) (n i : Nat) : (lowBits b n).getLsbD i = (b.getLsbD i && decide (i < n)) := by
  rw [lowBits, BitVec.getLsbD_and, BitVec.getLsbD_ofNat, Nat.testBit_two_pow_sub_one]
  by_cases hi : i < 17
  · simp [hi]
  · simp [hi, BitVec.getLsbD_of_ge b i (by omega)]

/-- One more low bit. -/
theorem lowBits_succ (b : Lfsr) (n : Nat) :
    lowBits b (n + 1) = lowBits b n ^^^ if b.getLsbD n then 1#17 <<< n else 0 := by
  apply BitVec.eq_of_getLsbD_eq
  intro i hi
  have h1 : ((if b.getLsbD n then 1#17 <<< n else 0 : Lfsr)).getLsbD i = (b.getLsbD n && decide (i = n)) := by
    cases b.getLsbD n
    · simp
    · rw [if_pos rfl, BitVec.getLsbD_shiftLeft, Bool.true_and]
      by_cases h : i < n
      · simp [h, hi, Nat.ne_of_lt h]
      · by_cases h' : i = n
        · simp [h', h' ▸ hi]
        · have : i - n ≠ 0 := by omega
          simp [h', this]
  rw [BitVec.getLsbD_xor, h1, lowBits_getLsbD, lowBits_getLsbD]
  rcases lt_trichotomy i n with h | h | h
  · simp [h, Nat.lt_succ_of_lt h, Nat.ne_of_lt h]
  · simp [h]
  · simp [show ¬i < n + 1 by omega, show ¬i < n by omega, show i ≠ n by omega]

/-- A linear function is given by its values at the single bits. -/
theorem combine_eq (f : Lfsr → Lfsr) (hf : ∀ a b, f (a ^^^ b) = f a ^^^ f b) (columns : List Lfsr)
    (hc : ∀ i, i < 17 → columns.getD i 0 = f (1#17 <<< i)) (b : Lfsr) : combine columns b = f b := by
  have h0 : f 0 = 0 := by simpa using hf 0 0
  have key : ∀ n, n ≤ 17 →
      (List.range n).foldl (fun x i => if b.getLsbD i then x ^^^ columns.getD i 0 else x) 0 =
        f (lowBits b n) := by
    intro n
    induction n with
    | zero => exact fun _ => h0.symm.trans (congrArg f (by simp [lowBits]))
    | succ n ih =>
      intro hn
      rw [List.range_succ, List.foldl_append, ih (by omega), lowBits_succ, hf]
      simp only [List.foldl_cons, List.foldl_nil, hc n (by omega)]
      split
      · rfl
      · rw [h0]
        simp
  rw [combine, key 17 le_rfl]
  congr 1
  exact BitVec.eq_of_getLsbD_eq fun i hi => by
    rw [lowBits_getLsbD]
    simp [hi]

/-- The columns of the function applied twice. -/
def twice (columns : List Lfsr) : List Lfsr := columns.map (combine columns)

/-- The columns of the 2^e-th power of a linear function, from its own. -/
theorem iterate_two_pow_eq (f : Lfsr → Lfsr) (hf : ∀ a b, f (a ^^^ b) = f a ^^^ f b) (columns : List Lfsr)
    (hl : columns.length = 17) (hc : ∀ i, i < 17 → columns.getD i 0 = f (1#17 <<< i)) (e : Nat) (b : Lfsr) :
    f^[2 ^ e] b = combine (twice^[e] columns) b := by
  induction e generalizing f columns with
  | zero => simpa using (combine_eq f hf columns hc b).symm
  | succ e ih =>
    rw [pow_succ', Function.iterate_mul, Function.iterate_succ_apply]
    refine ih f^[2] (fun x y => by simp [hf]) (twice columns) (by simp [twice, hl]) fun i hi => ?_
    rw [twice, List.getD_eq_getElem?_getD, List.getElem?_map, List.getElem?_eq_getElem (by omega)]
    have := hc i hi
    rw [List.getD_eq_getElem?_getD, List.getElem?_eq_getElem (by omega)] at this
    simp only [Option.map_some, Option.getD_some] at this ⊢
    rw [combine_eq f hf columns hc, this]
    rfl

/-- The values of a function at the single bits. -/
def columnsOf (f : Lfsr → Lfsr) : List Lfsr := (List.range 17).map fun i => f (1#17 <<< i)

/-- The 2^e-th power of a linear function. -/
theorem iterate_two_pow_columns (f : Lfsr → Lfsr) (hf : ∀ a b, f (a ^^^ b) = f a ^^^ f b) (e : Nat) (b : Lfsr) :
    f^[2 ^ e] b = combine (twice^[e] (columnsOf f)) b :=
  iterate_two_pow_eq f hf (columnsOf f) (by simp [columnsOf]) (fun i hi => by simp [columnsOf, hi]) e b

/-- The powers 1, 2, 4, ..., 2^(e-1) of a linear function, one after the other, from its columns. -/
def stepOnes : (e : Nat) → (columns : List Lfsr) → (b : Lfsr) → Lfsr
  | 0, _, b => b
  | e + 1, columns, b => stepOnes e (twice columns) (combine columns b)

/-- The (2^e - 1)-th power of a linear function. -/
theorem iterate_ones_columns (f : Lfsr → Lfsr) (hf : ∀ a b, f (a ^^^ b) = f a ^^^ f b) (e : Nat) (b : Lfsr) :
    f^[2 ^ e - 1] b = stepOnes e (columnsOf f) b := by
  have key : ∀ (e d : Nat) (b : Lfsr),
      f^[2 ^ d * (2 ^ e - 1)] b = stepOnes e (twice^[d] (columnsOf f)) b := by
    intro e
    induction e with
    | zero => exact fun _ _ => rfl
    | succ e ih =>
      intro d b
      rw [stepOnes, ← iterate_two_pow_columns f hf d b, ← Function.iterate_succ_apply' twice d, ← ih (d + 1),
        ← Function.iterate_add_apply]
      congr 2
      have := Nat.one_le_two_pow (n := e)
      rw [pow_succ 2 d, mul_assoc, show 2 ^ (e + 1) - 1 = 2 * (2 ^ e - 1) + 1 by rw [pow_succ]; omega]
      ring
  simpa using key e 0 b

end Sys2Proof.Machine
end

