-- ==== Sys2Proof/Laws/PerInstr.lean ====
section
/-! SUPPORT. Statements about every instruction as syntax, one lemma for each constructor: which port and which W bit
its transaction has (30_encoding.md R65, R72). -/

namespace Sys2Proof.Laws

/-- The W bit of a bus transaction; none for a capture. -/
def portOf : Transaction → Option Bool
  | .bus h _ => some (headerWrite h)
  | .capture _ => none

/-- The port and W bit the spec gives an instruction: a command and BUS-WR are writes, BUS-RD is a read, CAP is on
the capture port (30_encoding.md R65). -/
def portGiven : Instr → Option Bool
  | .busRd _ => some false
  | .cap _ _ => none
  | _ => some true

namespace EncodedPort

/-- An instruction is encoded on its own port, with its own W bit. -/
def Statement (i : Instr) : Prop := portOf (encode i) = portGiven i

theorem start : Statement .start := rfl
theorem stop : Statement .stop := rfl
theorem reset : Statement .reset := rfl
theorem tryAdvance : Statement .tryAdvance := rfl
theorem processLocation : Statement .processLocation := rfl
theorem classify (r : Rx) : Statement (.classify r) := rfl
theorem resolve (r : Rx) : Statement (.resolve r) := rfl
theorem matchSweep (r : Rx) : Statement (.matchSweep r) := rfl
theorem locate (r : Rx) : Statement (.locate r) := rfl
theorem popcount : Statement .popcount := rfl
theorem lfsrFwd (p : PolyIx) : Statement (.lfsrFwd p) := rfl
theorem lfsrBack (p : PolyIx) : Statement (.lfsrBack p) := rfl
theorem polyCheck (p : PolyIx) (n : Fin 64) : Statement (.polyCheck p n) := rfl
theorem reverseCount (p : PolyIx) : Statement (.reverseCount p) := rfl
theorem matchArg : Statement .matchArg := rfl
theorem busRd (a : Addr) : Statement (.busRd a) := congrArg some (headerWrite_busHeader false a)
theorem busWr (a : Addr) (v : Word) : Statement (.busWr a v) := congrArg some (headerWrite_busHeader true a)
theorem cap (r : Rx) (d : RawBuffer) : Statement (.cap r d) := rfl

end EncodedPort

end Sys2Proof.Laws
end

