-- ==== Sys2Proof/Tests/Slice0.lean ====
section
/-! SUPPORT. Tests of the model.  The expected values are those of spec/95_test_vectors.md (a vector is named by its
number there) or are written out from the encoding tables; each theorem named `witness_…` shows a state and operands
that meet every hypothesis of the statement it names. -/

namespace Sys2Proof.Tests

set_option Elab.async false

open Sys2Proof Sys2Proof.Machine Sys2Proof.Spec

/-! ### Well-formedness -/

theorem test_wellFormed_refuses_command_written_as_data :
    (Instr.busWr 0x000#9 0x00000001#32).wellFormed = false := by decide
theorem test_wellFormed_refuses_command_with_operands_written_as_data :
    (Instr.busWr 0x000#9 0x0001FE23#32).wellFormed = false := by decide
theorem test_wellFormed_accepts_other_writes :
    (Instr.busWr 0x000#9 0x00020023#32).wellFormed = true ∧ (Instr.busWr 0x002#9 0x00000001#32).wellFormed = true := by
  decide

/-! ### Decoding: every constructor, from its word written out field by field (30_encoding.md R66, R68) -/

/-- A command word as its five fields Z, N, P, R, OP, most significant first (30_encoding.md R66). -/
def fields (z : BitVec 15) (n : BitVec 6) (p : BitVec 2) (r : BitVec 1) (op : BitVec 8) : Nat :=
  (z ++ n ++ p ++ r ++ op).toNat

theorem test_decode_start : decodeTableWord 32 (fields 0 0 0 0 0b00000001) = some .start := by decide
theorem test_decode_stop : decodeTableWord 32 (fields 0 0 0 0 0b00000010) = some .stop := by decide
theorem test_decode_reset : decodeTableWord 32 (fields 0 0 0 0 0b00000011) = some .reset := by decide
theorem test_decode_tryAdvance : decodeTableWord 32 (fields 0 0 0 0 0b00000100) = some .tryAdvance := by decide
theorem test_decode_processLocation : decodeTableWord 32 (fields 0 0 0 0 0b00000101) = some .processLocation := by
  decide
theorem test_decode_classify : decodeTableWord 32 (fields 0 0 0 1 0b00010000) = some (.classify 1) := by decide
theorem test_decode_resolve : decodeTableWord 32 (fields 0 0 0 1 0b00010001) = some (.resolve 1) := by decide
theorem test_decode_matchSweep : decodeTableWord 32 (fields 0 0 0 1 0b00010010) = some (.matchSweep 1) := by decide
theorem test_decode_locate : decodeTableWord 32 (fields 0 0 0 1 0b00010011) = some (.locate 1) := by decide
theorem test_decode_popcount : decodeTableWord 32 (fields 0 0 0 0 0b00100000) = some .popcount := by decide
theorem test_decode_lfsrFwd : decodeTableWord 32 (fields 0 0 0b10 0 0b00100001) = some (.lfsrFwd 2) := by decide
theorem test_decode_lfsrBack : decodeTableWord 32 (fields 0 0 0b01 0 0b00100010) = some (.lfsrBack 1) := by decide
theorem test_decode_polyCheck :
    decodeTableWord 32 (fields 0 0b101111 0b10 0 0b00100011) = some (.polyCheck 2 47) := by decide
theorem test_decode_reverseCount : decodeTableWord 32 (fields 0 0 0b11 0 0b00100100) = some (.reverseCount 3) := by
  decide
theorem test_decode_matchArg : decodeTableWord 32 (fields 0 0 0 0 0b00100101) = some .matchArg := by decide
theorem test_decode_busRd : decodeTableWord 16 0b0100010001 = some (.busRd 0x111#9) := by decide
theorem test_decode_busWr :
    decodeTableWord 48 ((0b1#1 ++ 0b000000010#9 ++ 0x89ABCDEF#32).toNat) = some (.busWr 0x002#9 0x89ABCDEF#32) := by
  decide

/-- A buffer whose first bytes are listed, the others 0x00. -/
def raw (first : List Byte) : RawBuffer := Vector.ofFn fun i => first.getD i.val 0

/-- CAP 1 with D[0] = 0x80, D[1] = 0x0F and D[127] = 0x01: R on top, D[0] below it. -/
theorem test_decode_cap :
    decodeTableWord 1032 (2 ^ 1024 + 0x80 * 2 ^ 1016 + 0x0F * 2 ^ 1008 + 0x01) =
      some (.cap 1 ((raw [0x80, 0x0F]).set 127 0x01)) := by
  decide +kernel

/-- Words that spell no command (E1, E2, E3, E4, E5, E6). -/
theorem test_decode_refuses :
    [0x00000000, 0x00000006, 0x00000121, 0x00020023, 0x00000610, 0x00000101].all
      (fun w => decodeTableWord 32 w == none) = true := by
  decide

/-- The refusals are by name. -/
theorem test_decode_errors :
    decodeCommand 0x00000006#32 = .error (.reservedOpcode 0x06#8) ∧
      decodeCommand 0x00000101#32 = .error (.nonzeroUnusedField 0x01#8) := by
  decide

/-! ### One step at a time -/

/-- The configuration TC1 of spec/95_test_vectors.md section 1, with a bound of its own; of LANDMARK, the rows of
polynomials 0 and 1. -/
def rom (bound : Nat) : Rom where
  taps := #v[0x12000, 0x10800, 0x10400, 0x10004]
  landmark :=
    #v[#v[0x00001, 0x1265E, 0x0830E, 0x04CBD, 0x02042, 0x01A74, 0x00C38, 0x014AA,
          0x00204, 0x0256C, 0x010A2, 0x048DD, 0x00428, 0x08118, 0x0408D, 0x10618],
       #v[0x00001, 0x12CF8, 0x0926D, 0x04B2C, 0x02492, 0x059F1, 0x00822, 0x00434,
          0x00208, 0x09771, 0x049B4, 0x0004A, 0x00024, 0x12CEA, 0x00418, 0x04920],
       Vector.replicate 16 0x00001, Vector.replicate 16 0x00001]
  revMaxIter := bound

/-- The machine after reset, over TC1. -/
def s0 : State := State.resetWith (rom 20)

/-- s0 in another session state. -/
def inState (x : Session) : State := { s0 with session := x }

/-- The next state, or the same state where there is none. -/
def after (i : Instr) (s : State) : State :=
  match exec i s with
  | .next t => t
  | _ => s

/-- T1. -/
theorem test_start_status : statusWord (after .start s0) = 0x00000001#32 := by decide
/-- R122: START keeps ARG, RES, LEAF and the sticky bits, and clears ERR and FULL. -/
theorem test_start_keeps :
    let t := after .start { s0 with
      arg := 5, res := 6, leaf := .timeout, illegal := true, err := .overflow, errSweep := 1
      sweep0 := { Sweep.reset with full := true } }
    t.arg = 5 ∧ t.res = 6 ∧ statusWord t = 0x00000701#32 := by
  decide
/-- P5. -/
theorem test_stop_keeps_buffer :
    statusWord (after .stop { inState .running with sweep0 := { Sweep.reset with full := true } }) = 0x00000004#32 := by
  decide
/-- T16. -/
theorem test_stop_keeps_pair :
    let t := after .stop { inState .locationReady with pair0 := ⟨some 1, 0, 9308⟩ }
    t.session = .idle ∧ t.pair0.loc = 9308 ∧ (statusWord t).getLsbD 13 = false := by
  decide
/-- T17. -/
theorem test_reset_clears_sticky_bits :
    statusWord (after .reset { inState .running with illegal := true, busErr := true, leaf := .timeout }) = 0 := by
  decide
/-- R124: the constants stay. -/
theorem test_reset_keeps_tables : (after .reset s0).rom.revMaxIter = 20 := by decide

/-- Both buffers delivered in RUNNING. -/
def bothFull (d0 d1 : RawBuffer) : State :=
  { inState .running with
    sweep0 := { Sweep.reset with raw := d0, full := true }, sweep1 := { Sweep.reset with raw := d1, full := true } }

/-- T8. -/
theorem test_tryAdvance_match_fail : statusWord (after .tryAdvance (bothFull (raw []) (raw []))) = 0x00000021#32 := by
  decide +kernel
/-- T10. -/
theorem test_tryAdvance_overflow_of_sweep_0 :
    statusWord (after .tryAdvance (bothFull (Vector.replicate 128 0xAA) (raw []))) = 0x00000011#32 := by
  decide +kernel

/-- RAW_DATA_READY with sweep 0 at landmark 1 of polynomial 0 (location 8192, Q4) and sweep 1 at location 8 of
polynomial 1 (Q11). -/
def readyToLocate (bound : Nat) : State :=
  { State.resetWith (rom bound) with
    session := .rawDataReady
    sweep0 := { Sweep.reset with full := true, poly := some 0, chips := 0x1265E#64 <<< 47 }
    sweep1 := { Sweep.reset with full := true, poly := some 1, chips := 0x00100#64 <<< 47 } }

/-- S8, with the status of T12. -/
theorem test_processLocation_swaps :
    let t := after .processLocation (readyToLocate 20)
    statusWord t = 0x00002083#32 ∧ t.pair0 = ⟨some 1, 0, 8⟩ ∧ t.pair1 = ⟨some 0, 0, 8192⟩ := by
  decide +kernel
/-- R119, R121: with a bound of 5, sweep 0 is located in 1 iteration and sweep 1 times out. -/
theorem test_processLocation_timeout :
    statusWord (after .processLocation (readyToLocate 5)) = 0x00000071#32 := by
  decide +kernel

/-- K6 and K5. -/
theorem test_classify :
    memRead (after (.classify 0) { s0 with sweep0 := { Sweep.reset with raw := raw [0x78] } }) 0x010#9 =
        0x00000202#32 ∧
      memRead (after (.classify 1) { s0 with sweep1 := { Sweep.reset with raw := (raw []).set 127 0x01 } }) 0x080#9 =
        0x000003FF#32 := by
  decide +kernel
/-- K9. -/
theorem test_classify_overflow :
    let t := after (.classify 0) { s0 with sweep0 := { Sweep.reset with raw := Vector.replicate 128 0xAA } }
    memRead t 0x010#9 = 0x00000100#32 ∧ t.leaf = .overflow := by
  decide +kernel

/-- A sweep with the given symbols. -/
def withSymbols (excl : Bool) (c : List Ternary) : Sweep :=
  { Sweep.reset with nsym := BitVec.ofNat 8 c.length, sym := Vector.ofFn fun j => c.getD j.val .zero, excl := excl }

/-- V1 and V14. -/
theorem test_resolve :
    (resolveSweep (withSymbols false [.zero, .one, .amb, .one, .zero])).chips = 0xF000000000000000#64 ∧
      (resolveSweep (withSymbols false [.one, .zero, .one, .one, .zero])).chips = 0x6000000000000000#64 := by
  decide +kernel
/-- V9: EXCL keeps symbol 0 out of the count, and packing skips it. -/
theorem test_resolve_excluded_symbol :
    let t := after (.resolve 0) { s0 with sweep0 := withSymbols true [.one, .amb, .zero] }
    memRead t 0x010#9 = 0x00000603#32 ∧ memRead t 0x030#9 = 0x00000001#32 ∧ t.sweep0.chips = 0 := by
  decide +kernel

/-- X1. -/
theorem test_matchSweep :
    let t := after (.matchSweep 1) { s0 with sweep1 := { Sweep.reset with chips := 0x0080024008202490#64 } }
    memRead t 0x01B#9 = 0x042F0000#32 ∧ memRead t 0x01C#9 = 0x00000900#32 := by
  decide +kernel
/-- X9. -/
theorem test_matchSweep_not_found :
    let t := after (.matchSweep 0) s0
    memRead t 0x013#9 = 0x010902FF#32 ∧ t.leaf = .notFound := by
  decide +kernel
/-- Q4, as the seed of sweep 0. -/
theorem test_locate :
    memRead (after (.locate 0)
      { s0 with sweep0 := { Sweep.reset with poly := some 0, chips := 0x1265E#64 <<< 47 } }) 0x015#9 = 0x00002000#32 := by
  decide +kernel
/-- P5: sweep 1 has no polynomial. -/
theorem test_locate_not_found : statusWord (after (.locate 1) s0) = 0x00000200#32 := by decide +kernel

/-- S3. -/
theorem test_popcount : (after .popcount { s0 with arg := 0x0123456789ABCDEF }).res = 32 := by decide +kernel
/-- M1. -/
theorem test_lfsrFwd : (after (.lfsrFwd 0) { s0 with arg := 0x10000 }).res = 1 := by decide +kernel
/-- M7. -/
theorem test_lfsrFwd_ignores_high_bits : (after (.lfsrFwd 0) { s0 with arg := 0xFFFFFFFFFFFE0001 }).res = 2 := by
  decide +kernel
/-- B4. -/
theorem test_lfsrBack : (after (.lfsrBack 0) { s0 with arg := 0x1265E }).res = 0x0932F := by decide +kernel
/-- B1. -/
theorem test_lfsrBack_top : (after (.lfsrBack 0) { s0 with arg := 1 }).res = 0x10000 := by decide +kernel
/-- M10. -/
theorem test_polyCheck : (after (.polyCheck 0 47) { s0 with arg := 0x100 }).res = 0x0000024008202490 := by
  decide +kernel
/-- M9. -/
theorem test_polyCheck_other : (after (.polyCheck 1 20) { s0 with arg := 1 }).res = 0x108 := by decide +kernel
/-- Q6. -/
theorem test_reverseCount : (after (.reverseCount 0) { s0 with arg := 0x04CBC }).res = 8193 := by decide +kernel
/-- Q17. -/
theorem test_reverseCount_timeout :
    let t := after (.reverseCount 0) s0
    t.res = 0x00000000FFFFFFFF ∧ statusWord t = 0x00000300#32 := by
  decide +kernel
/-- X5. -/
theorem test_matchArg :
    (after .matchArg { s0 with arg := 0x0080024008202491 }).res = 0x00000A01042F0000 := by
  decide +kernel
/-- S5: a flip that ends in the wrong polynomial. -/
theorem test_matchArg_late :
    (after .matchArg { s0 with arg := 0x4DAA907D49CB83CB }).res = 0x00000102010F0501 := by
  decide +kernel

/-- E14 and E17. -/
theorem test_busRd :
    (after (.busRd 0x0C1#9) s0).replies = [0x00010800#32] ∧ (after (.busRd 0x1FF#9) s0).replies = [0] := by decide
/-- E18. -/
theorem test_busRd_landmark : (after (.busRd 0x111#9) s0).replies = [0x00012CF8#32] := by decide
/-- E16. -/
theorem test_busWr_arg :
    (after (.busWr 0x003#9 0x01234567#32) (after (.busWr 0x002#9 0x89ABCDEF#32) s0)).arg = 0x0123456789ABCDEF := by
  decide
/-- E1 and E11. -/
theorem test_busWr_refused :
    statusWord (after (.busWr 0x000#9 0#32) s0) = 0x00000400#32 ∧
      statusWord (after (.busWr 0x001#9 1#32) s0) = 0x00000800#32 := by
  decide
/-- T2 and E19. -/
theorem test_cap_accepted :
    let t := after (.cap 0 (raw [0x03, 0xF0, 0x3F, 0x03])) (inState .running)
    statusWord t = 0x00000005#32 ∧ memRead t 0x140#9 = 0x03F03F03#32 := by
  decide +kernel
/-- T3: the buffer is owned. -/
theorem test_cap_refused :
    let t := after (.cap 0 (raw [0xFF])) { inState .running with sweep0 := { Sweep.reset with full := true } }
    statusWord t = 0x00001005#32 ∧ t.sweep0.raw = raw [] := by
  decide +kernel

/-- A placed word is the next step's instruction. -/
theorem test_step_runs_placed_word :
    (match step (s0.withFetchWord 32 0x00000001) with
      | .next t => statusWord t
      | _ => 0) = 0x00000001#32 := by
  decide

/-! ### Witnesses: a state and operands that meet the hypotheses of each statement -/

theorem witness_DecodeOfEncodeIsTheInstruction :
    (Instr.polyCheck 3 63).wellFormed = true ∧ (Instr.busWr 0x1FF#9 0xFFFFFFFF#32).wellFormed = true := by decide

theorem witness_EncodeOfDecodeIsTheTransaction :
    (0x200#10).getLsbD 9 = true ∧ (0x3FF#10).getLsbD 9 = true ∧ (0x1FF#10).getLsbD 9 = false := by decide

theorem witness_WordsSpellExactlyTheirForms :
    isCommandWord 0x0001FE23#32 = true ∧ isCommandWord 0x00020023#32 = false ∧
      decodeCommand 0x00000625#32 ≠ .ok .matchArg := by
  decide

theorem witness_StepRunsTheDecodedInstruction :
    (∃ (s : State) (t : Transaction) (rest : List Transaction) (i : Instr),
        s.pending = t :: rest ∧ decode t = i ∧ i.wellFormed = true) ∧ s0.pending = [] :=
  ⟨⟨s0.withFetchWord 32 1, .bus 0x200#10 1, [], .start, by decide⟩, rfl⟩

/-- Each of the three cases: no command, a diagnostic outside IDLE, and a diagnostic in IDLE. -/
theorem witness_CommandWordsExecute :
    commandForms.any (fun form => (0x00000113#32 &&& form.2) == form.1) = true ∧
      commandForms.any (fun form => (0x00000213#32 &&& form.2) == form.1) = false ∧
      decodeCommand 0x00000113#32 = .ok (.locate 1) ∧ isDiagnostic (.locate 1) = true ∧
      (inState .running).session ≠ .idle ∧ s0.session = .idle := by
  decide

theorem witness_DiagnosticsOutsideIdleAreRejected :
    isDiagnostic (.classify 0) = true ∧ isDiagnostic (.locate 1) = true ∧ (inState .locationReady).session ≠ .idle := by
  decide

theorem witness_BusWritesReachArgOrAreRecorded :
    [0x001#9, 0x004#9, 0x1FF#9].all (fun a => a != 0x000#9 && a != 0x002#9 && a != 0x003#9) = true := by decide

/-- The ends of every unmapped range. -/
theorem witness_BusReadsReturnTheMappedWord :
    ∀ n ∈ [0x00A, 0x00F, 0x016, 0x017, 0x01E, 0x01F, 0x038, 0x03F, 0x0C4, 0x0FF, 0x180, 0x1FF], isUnmapped n := by
  unfold isUnmapped
  decide

/-- The ends of every mapped range. -/
theorem witness_AddressesNameTheirRegisters :
    (∀ n ∈ [0x000, 0x009, 0x010, 0x015, 0x018, 0x01D, 0x020, 0x02F, 0x030, 0x037, 0x040, 0x0BF, 0x0C0, 0x0C3, 0x100,
        0x13F, 0x140, 0x17F], ¬isUnmapped n) ∧ Register.rawW 1 31 ≠ .unmapped := by
  unfold isUnmapped
  decide

theorem witness_ArrayReadbackWordsHoldTheirElements : 0 < 16 ∧ 15 < 16 ∧ 0 < 32 ∧ 31 < 32 := by decide

/-- Accepted in both armed states, and refused for each of the two reasons. -/
theorem witness_CaptureIsAcceptedOrRecorded :
    capAccepted (inState .running) 0 ∧ capAccepted (inState .locationReady) 1 ∧ ¬capAccepted s0 0 ∧
      ¬capAccepted { inState .running with sweep1 := { Sweep.reset with full := true } } 1 := by
  unfold capAccepted
  decide

theorem witness_CaptureLeavesEveryOtherReadableWord :
    ∃ t, exec (.cap 1 (raw [1])) (inState .running) = .next t := ⟨_, rfl⟩

theorem witness_CapturesOfTheTwoReceiversCommute :
    ∃ a b c d, exec (.cap 0 (raw [1])) (inState .running) = .next a ∧ exec (.cap 1 (raw [2])) a = .next b ∧
      exec (.cap 1 (raw [2])) (inState .running) = .next c ∧ exec (.cap 0 (raw [1])) c = .next d :=
  ⟨_, _, _, _, rfl, rfl, rfl, rfl⟩

/-- K7 has exactly 128 transitions and K8 has 129. -/
theorem witness_ClassifyMeasuresTheClosedRuns :
    s0.session = .idle ∧ (transitions (raw (List.replicate 16 0x55))).length = 128 ∧
      (transitions (raw (List.replicate 16 0x55 ++ 0x7F :: List.replicate 111 0xFF))).length = 129 ∧
      (transitions (raw [])).length = 0 := by
  decide +kernel

theorem witness_ClassificationIgnoresPolarity :
    ∃ x y : Sweep, ∀ i : Fin 128, y.raw[i] = ~~~(x.raw[i]) :=
  ⟨{ Sweep.reset with raw := Vector.replicate 128 0x00 }, { Sweep.reset with raw := Vector.replicate 128 0xFF },
    by decide +kernel⟩

theorem witness_ResolvePacksTheResolvedSymbols :
    s0.session = .idle ∧ (Sweep.reset).nsym.toNat ≤ 128 ∧ (withSymbols false (List.replicate 128 .one)).nsym.toNat ≤ 128 := by
  decide +kernel

theorem witness_MatchRecordsTheSearch : s0.session = .idle := rfl

/-- F1 (last symbol), F2, F3, F4, both parts of F5, C1 and C2, in turn (V5, V15, V1, V6, V8, V7). -/
theorem witness_PassesTakeTheirCases :
    (0 + 1 = [Ternary.amb].length ∧ [Ternary.amb].getD 0 .zero = .amb) ∧
      [Ternary.zero, .amb, .amb, .zero].getD (2 - 1) .zero = .amb ∧
      (onesBefore [Ternary.zero, .one, .amb, .one, .zero] 0 2 % 2 = 1 ∧
        [Ternary.zero, .one, .amb, .one, .zero].getD 3 .zero = .one) ∧
      (onesBefore [Ternary.zero, .amb, .zero] 0 1 % 2 = 0 ∧ [Ternary.zero, .amb, .zero].getD 2 .zero = .zero) ∧
      (onesBefore [Ternary.zero, .one, .amb, .zero] 0 2 % 2 = 1 ∧
        [Ternary.zero, .one, .amb, .zero].getD 3 .zero = .zero) ∧
      (onesBefore [Ternary.zero, .amb, .one, .zero] 0 1 % 2 = 0 ∧
        [Ternary.zero, .amb, .one, .zero].getD 2 .zero = .one) ∧
      (onesBefore [Ternary.zero, .one, .zero] 0 2 % 2 = 1 ∧ 1 ≤ 2 - onesBefore [Ternary.zero, .one, .zero] 0 2) ∧
      (onesBefore [Ternary.one, .zero] 0 1 % 2 = 1 ∧ ¬1 ≤ 1 - onesBefore [Ternary.one, .zero] 0 1) := by
  decide

/-- i = 3 of O O O with symbol 0 excluded: k = 2 is allowed and k = 3 is not. -/
theorem witness_OnesBeforeIsTheLongestRun :
    3 ≤ [Ternary.one, .one, .one].length ∧ 2 ≤ 3 ∧ 1 ≤ 3 - 2 ∧
      (∀ j < 3, 3 - 2 ≤ j → [Ternary.one, .one, .one].getD j .zero = .one) ∧ ¬1 ≤ 3 - 3 := by
  decide

/-- V2: after it, symbols 0 and 3 are ZERO with two ONEs between them. -/
theorem witness_OnesBetweenZerosAreEven :
    let s := { s0 with sweep0 := withSymbols false [.zero, .one, .amb, .amb] }
    s.session = .idle ∧ (s.sweep 0).nsym.toNat = 4 ∧
      (∃ t, exec (.resolve 0) s = .next t ∧ (t.sweep 0).rsym.toList[0]? = some false ∧
        (t.sweep 0).rsym.toList[3]? = some false ∧
        ∀ j < 3, 0 < j → (t.sweep 0).rsym.toList[j]? = some true) := by
  refine ⟨rfl, by decide, _, rfl, ?_⟩
  decide +kernel

theorem witness_HammingWeightLaws :
    ∀ i < 64, (0xF7B3D591E6A2C480#64).getLsbD i = (0x0123456789ABCDEF#64).getLsbD (63 - i) := by decide +kernel

theorem witness_PolyCheckGeneratesTheParityBits : 0 < (63 : Fin 64).val ∧ 62 < (63 : Fin 64).val ∧ (0 : Fin 64).val ≤ 0 := by
  decide

theorem witness_SeedAndComparedBitsOfAnAttempt : 0 + 47 ≤ 47 ∧ 8 + 39 ≤ 47 ∧ 0 + 0 ≤ 47 := by decide

/-- X1 and X2. -/
theorem witness_CleanSequenceMatchesAtOffsetZero :
    polyCheck ((rom 1).tap 0) 0x100 47 ≠ polyCheck ((rom 1).tap 1) 0x100 47 ∧
      0x0080024008202490#64 =
        (((0x100 : Lfsr).setWidth 64 <<< 47) ||| polyCheck ((rom 1).tap (activePoly 0)) 0x100 47) ∧
      0x0080084080284290#64 =
        (((0x100 : Lfsr).setWidth 64 <<< 47) ||| polyCheck ((rom 1).tap (activePoly 1)) 0x100 47) := by
  decide +kernel

theorem witness_SearchReturnsTheFirstMatchingAttempt :
    matchesAt (rom 1) 0x0080024008202490 0 0 ∧ ¬matchesAt (rom 1) 0 37 0 ∧ ¬matchesAt (rom 1) 0 37 1 := by
  unfold matchesAt distanceAt onesOf
  decide +kernel

theorem witness_BackwardStepInvertsForwardStep :
    (0x12000 : Lfsr).getLsbD 16 = true ∧ (0x02000 : Lfsr).getLsbD 16 = false := by decide

/-- The three clauses: REF after 1 step with a bound of 1, landmark 1 after 1 step with a bound of 2, and a seed
that meets neither within the bound. -/
theorem witness_ReverseCountWalksToReferenceOrLandmark :
    (1 ≤ (rom 1).revMaxIter ∧ backN (rom 1) 0 1 0x00002 = 0x00001#17 ∧
        ∀ j < 1, backN (rom 1) 0 j 0x00002 ≠ 0x00001#17 ∧ noLandmark (rom 1) 0 (backN (rom 1) 0 j 0x00002)) ∧
      (1 < (rom 2).revMaxIter ∧ firstLandmark (rom 2) 0 (backN (rom 2) 0 1 0x04CBC) 1 ∧
        (∀ j, j ≤ 1 → backN (rom 2) 0 j 0x04CBC ≠ 0x00001#17) ∧
        ∀ j < 1, noLandmark (rom 2) 0 (backN (rom 2) 0 j 0x04CBC)) ∧
      (∀ j, j ≤ (rom 7).revMaxIter → backN (rom 7) 0 j 0x00100 ≠ 0x00001#17) ∧
      ∀ j < (rom 7).revMaxIter, noLandmark (rom 7) 0 (backN (rom 7) 0 j 0x00100) := by
  unfold firstLandmark noLandmark backN
  decide +kernel

theorem witness_ReverseCountIsBounded :
    reverseCount (rom 1) 0 0x10618 = some 122880 ∧ reverseCount (rom 8) 0 0x00100 = some 8 ∧ noLandmark (rom 1) 0 0 := by
  unfold noLandmark
  decide +kernel

theorem witness_ReverseCountCommandReportsTheCount :
    reverseCount (rom 20) 0 (({ s0 with arg := 0x100 } : State).arg.extractLsb' 0 17) = some 8 ∧
      reverseCount s0.rom 0 (s0.arg.extractLsb' 0 17) = none := by
  decide +kernel

/-- Under TC1, the landmarks of polynomial 0 are 8192 backward steps apart (00_scope.md R13). -/
theorem tc1_landmarks_apart : ∀ k : Fin 15,
    combine (twice^[13] (columnsOf (back 0x12000))) ((rom 20).landmarkAt 0 k.succ) =
      (rom 20).landmarkAt 0 k.castSucc := by
  decide +kernel

theorem tc1_consistent : consistent (rom 20) 0 := by
  intro k
  have h : ∀ n (hn : n < 16), backN (rom 20) 0 (8192 * n) ((rom 20).landmarkAt 0 ⟨n, hn⟩) = 0x00001#17 := by
    intro n
    induction n with
    | zero => exact fun _ => rfl
    | succ n ih =>
      intro hn
      rw [backN, Nat.mul_succ, Function.iterate_add_apply]
      have := iterate_two_pow_columns (back 0x12000) (back_xor _) 13 ((rom 20).landmarkAt 0 ⟨n + 1, hn⟩)
      rw [show (back ((rom 20).tap 0))^[8192] = (back 0x12000)^[2 ^ 13] from rfl, this]
      rw [show (⟨n + 1, hn⟩ : Fin 16) = (⟨n, by omega⟩ : Fin 15).succ from rfl, tc1_landmarks_apart]
      exact ih (by omega)
  exact h k.val k.isLt

/-- Under TC1, 131071 = 2^17 - 1 forward steps of polynomial 0 lead from REF to REF. -/
theorem tc1_comes_back : stepOnes 17 (columnsOf (fwd 0x12000)) 0x00001#17 = 0x00001#17 := by decide +kernel

theorem tc1_period : isPeriod ((rom 20).tap 0) 131071 := by
  have hp : Function.IsPeriodicPt (fwd 0x12000) 131071 0x00001#17 :=
    (iterate_ones_columns (fwd 0x12000) (fwd_xor _) 17 0x00001#17).trans tc1_comes_back
  refine ⟨by norm_num, hp, fun m hm hlt he => ?_⟩
  have hm' : Function.IsPeriodicPt (fwd 0x12000) m 0x00001#17 := he
  rcases (Nat.dvd_prime (by norm_num : Nat.Prime 131071)).1 hp.minimalPeriod_dvd with h | h
  · have h1 : fwd 0x12000 0x00001#17 = 0x00001#17 := Function.minimalPeriod_eq_one_iff_isFixedPt.1 h
    revert h1
    decide
  · have := hm'.minimalPeriod_le hm
    omega

/-- A count, the count of the seed one step on, and a period that exceeds every landmark distance. -/
theorem witness_CountIsAForwardDistanceFromReference :
    let s := { s0 with arg := 0x04CBC }
    (s.rom.tap 0).getLsbD 16 = true ∧ consistent s.rom 0 ∧ isPeriod (s.rom.tap 0) 131071 ∧ 122880 < 131071 ∧
      (∃ t, exec (.reverseCount 0) s = .next t ∧ t.leaf = .none ∧ t.res = 8193) ∧
      ({ s with arg := 0x09978 } : State).arg.extractLsb' 0 17 = (fwd (s.rom.tap 0))^[1] (s.arg.extractLsb' 0 17) ∧
      ∃ v, exec (.reverseCount 0) { s with arg := 0x09978 } = .next v ∧ v.leaf = .none ∧ v.res = 8194 := by
  refine ⟨by decide, tc1_consistent, tc1_period, by decide, ⟨_, rfl, ?_⟩, ?_, _, rfl, ?_⟩ <;> decide +kernel

/-- Log entry 14: the mask 0x10000 makes every step a rotation, of period 17; the landmarks are consistent with it. -/
def rotations : Rom where
  taps := Vector.replicate 4 0x10000
  landmark := Vector.replicate 4 (Vector.ofFn fun k => 1#17 <<< (15 * k.val % 17))
  revMaxIter := 20

/-- Log entry 14: with a short period a count can exceed the period, since a landmark adds its own distance: seed 2
is one step from REF and counts 8192 x 8. -/
theorem test_count_exceeds_a_short_period :
    reverseCount rotations 0 2 = some 65536 ∧ (fwd (rotations.tap 0))^[1] 0x00001#17 = 2 := by
  decide +kernel

/-- The three cases of LOCATE. -/
theorem witness_LocateReportsTheSweepsLocation :
    s0.session = .idle ∧ (s0.sweep 0).poly = none ∧ ((readyToLocate 5).sweep 0).poly = some 0 ∧
      reverseCount (rom 5) (activePoly 0) (seedAt ((readyToLocate 5).sweep 0).chips 0) = some 8192 ∧
      reverseCount (rom 5) (activePoly 1) (seedAt ((readyToLocate 5).sweep 1).chips 0) = none := by
  decide +kernel

theorem witness_StopDisarmsCapture : ∃ t, exec .stop (inState .running) = .next t := ⟨_, rfl⟩

theorem witness_TryAdvanceWaitsForBothBuffers :
    ¬(((inState .running).session = .running ∨ (inState .running).session = .locationReady) ∧
      (inState .running).sweep0.full = true ∧ (inState .running).sweep1.full = true) := by
  decide

/-- A raw buffer that decodes to a matched sweep under TC1 (CAPT_P0 of spec/95_test_vectors.md section 6.1). -/
def captP0 : RawBuffer :=
  raw [0x03, 0xF0, 0x3F, 0x03, 0xF0, 0x3F, 0x3F, 0x03, 0xF0, 0x3F, 0x03, 0xF0, 0x3F, 0x03, 0xF0, 0x3F,
       0x3F, 0x03, 0x03, 0xF0, 0x3F, 0x0F, 0xC0, 0xFC, 0x0F, 0xCF, 0xC0, 0xFC, 0x0F, 0xCF, 0xC0, 0xFC,
       0x0F, 0xC0, 0xFC, 0xFC, 0x0C, 0x0F, 0xCF, 0xC0, 0xC0, 0xFC, 0x0F, 0xC0]

/-- The three outcomes: an overflow of sweep 0, a failure of sweep 1 alone, and none. -/
theorem witness_TryAdvanceDecodesBothSweeps :
    (bothFull captP0 captP0).session = .running ∧ (bothFull captP0 captP0).sweep0.full = true ∧
      (bothFull captP0 captP0).sweep1.full = true ∧
      outcomeOf (decodeSweep (rom 20) { Sweep.reset with raw := captP0, full := true }) = .none ∧
      outcomeOf (decodeSweep (rom 20) { Sweep.reset with raw := raw [], full := true }) = .matchFail ∧
      outcomeOf (decodeSweep (rom 20) { Sweep.reset with raw := Vector.replicate 128 0xAA }) = .overflow := by
  decide +kernel

theorem witness_DecodeSweepIsTheDiagnosticStages :
    (classifySweep { Sweep.reset with raw := raw (List.replicate 16 0x55) }).ovf = false ∧
      (classifySweep { Sweep.reset with raw := Vector.replicate 128 0xAA }).ovf = true := by
  decide +kernel

/-- For sweep 0 the states differ in sweep 1's buffer, and for sweep 1 in sweep 0's. -/
theorem witness_DecodingReadsOnlyTheSweepsOwnBuffer :
    captureArmed (bothFull (raw []) (raw [])) = true ∧ buffersReady (bothFull (raw []) (raw [])) = true ∧
      (bothFull (raw []) (raw [])).rom = (bothFull (raw []) (raw [1])).rom ∧
      ((bothFull (raw []) (raw [])).sweep 0).raw = ((bothFull (raw []) (raw [1])).sweep 0).raw ∧
      ((bothFull (raw []) (raw [1])).sweep 1).raw = ((bothFull (raw [2]) (raw [1])).sweep 1).raw ∧
      (∃ t, exec .tryAdvance (bothFull (raw []) (raw [])) = .next t) ∧
      (∃ t, exec .tryAdvance (bothFull (raw []) (raw [1])) = .next t) ∧
      ∃ t, exec .tryAdvance (bothFull (raw [2]) (raw [1])) = .next t :=
  ⟨rfl, rfl, rfl, by simp [bothFull], by simp [bothFull], ⟨_, rfl⟩, ⟨_, rfl⟩, ⟨_, rfl⟩⟩

theorem witness_ProcessLocationIsANoOpElsewhere : (inState .running).session ≠ .rawDataReady := by decide

/-- Both located and swapped, both located and kept in order, and a timeout. -/
theorem witness_ProcessLocationLocatesBothSweeps :
    (readyToLocate 20).session = .rawDataReady ∧ (readyToLocate 20).sweep0.poly = some 0 ∧
      (readyToLocate 20).sweep1.poly = some 1 ∧
      reverseCount (rom 20) (activePoly 0) (seedAt (readyToLocate 20).sweep0.chips 0) = some 8192 ∧
      reverseCount (rom 20) (activePoly 1) (seedAt (readyToLocate 20).sweep1.chips 0) = some 8 ∧
      reverseCount (rom 20) (activePoly 1) (seedAt (readyToLocate 20).sweep0.chips 0) = none := by
  decide +kernel

theorem witness_SessionStatesFollowTheTransitionTable :
    (Instr.cap 0 (raw [])).wellFormed = true ∧ ∃ t, exec .processLocation (inState .running) = .next t :=
  ⟨rfl, _, rfl⟩

/-- RESET, and each of the three rejections. -/
theorem witness_StickyBitsRecordRejections :
    (∃ t, exec .reset s0 = .next t) ∧ rejectsWord (.busWr 0x000#9 0#32) s0 = true ∧
      rejectsWord (.resolve 1) (inState .running) = true ∧ badWrite (.busWr 0x1FF#9 0#32) = true ∧
      (Instr.busWr 0x1FF#9 0#32).wellFormed = true ∧ refusedCap (.cap 0 (raw [])) s0 := by
  refine ⟨⟨_, rfl⟩, by decide, by decide, by decide, by decide, ?_⟩
  unfold refusedCap capAccepted
  decide

/-- For the registers of the whole machine, an instruction that changes each. -/
theorem witness_RegistersChangeOnlyUnderTheirWriters :
    (after .start s0).session ≠ s0.session ∧ (after (.busWr 0x002#9 1#32) s0).arg ≠ s0.arg ∧
      (after (.lfsrBack 0) { s0 with arg := 1 }).res ≠ s0.res ∧ (after (.locate 0) s0).leaf ≠ s0.leaf ∧
      (after .processLocation (readyToLocate 5)).err ≠ s0.err ∧
      (after .processLocation (readyToLocate 5)).errSweep ≠ s0.errSweep ∧
      (after .processLocation (readyToLocate 20)).pair0 ≠ s0.pair0 ∧
      (after .processLocation (readyToLocate 20)).pair1 ≠ s0.pair1 ∧
      (after .processLocation (readyToLocate 20)).swapped ≠ s0.swapped ∧
      (after (.busWr 0x000#9 0#32) s0).illegal ≠ s0.illegal ∧ (after (.busWr 0x1FF#9 0#32) s0).busErr ≠ s0.busErr ∧
      (after (.cap 0 (raw [1])) s0).capRej ≠ s0.capRej := by
  decide +kernel

/-- The same for the registers of a sweep: under CAP and CLASSIFY. -/
theorem witness_RegistersChangeOnlyUnderTheirWriters_symbols :
    (after (.cap 1 (raw [1])) (inState .running)).sweep1.raw[0] ≠ 0 ∧
      (after (.cap 1 (raw [1])) (inState .running)).sweep1.full ≠ false ∧
      memRead (after (.classify 1) { s0 with sweep1 := { Sweep.reset with raw := raw [0x10] } }) 0x080#9 ≠ 0 ∧
      memRead (after (.classify 1) { s0 with sweep1 := { Sweep.reset with raw := raw [0x10] } }) 0x028#9 ≠ 0 ∧
      memRead (after (.classify 1) { s0 with sweep1 := { Sweep.reset with raw := raw [0x10] } }) 0x018#9 ≠ 0 := by
  decide +kernel

/-- The same under RESOLVE, MATCH and PROCESS_LOCATION. -/
theorem witness_RegistersChangeOnlyUnderTheirWriters_results :
    let c := { s0 with sweep1 := withSymbols true [.one, .amb, .zero, .one] }
    let d := { s0 with sweep1 := { Sweep.reset with chips := 0x0080024008202491#64 } }
    memRead (after (.resolve 1) c) 0x034#9 ≠ 0 ∧ (after (.resolve 1) c).sweep1.skip0 ≠ false ∧
      (after (.resolve 1) c).sweep1.chips ≠ 0 ∧ (after (.matchSweep 1) d).sweep1.poly ≠ none ∧
      memRead (after (.matchSweep 1) d) 0x01B#9 ≠ 0 ∧ memRead (after (.matchSweep 1) d) 0x01C#9 ≠ 0 ∧
      (after .processLocation (readyToLocate 20)).sweep1.loc ≠ 0xFFFFFFFF#32 := by
  decide +kernel

/-- R30 and log entry 8: a classification clears what RSYM held past its NSYM, and keeps the rest. -/
theorem test_classify_clears_stale_rsym :
    memRead (after (.classify 0) { s0 with sweep0 := { Sweep.reset with
      raw := raw [0x03, 0xF0, 0x3F, 0x03], rsym := Vector.replicate 128 true } }) 0x030#9 = 0x0000003F#32 := by
  decide +kernel

theorem witness_TablesAreConstant : ∃ t, exec (.busWr 0x1FF#9 0#32) s0 = .next t := ⟨_, rfl⟩

/-- The one stop, in a state that no run reaches. -/
theorem witness_OnlyAnImpossibleStateStops :
    Instr.processLocation.wellFormed = true ∧ (inState .rawDataReady).session = .rawDataReady ∧
      (inState .rawDataReady).sweep0.poly = none := by
  decide

/-- A state that has the session invariants and is about to take a step. -/
theorem witness_EveryStepKeepsTheSessionInvariants :
    ∃ s t : State, SessionInv s ∧ step s = .next t ∧ s.session = .rawDataReady := by
  refine ⟨(readyToLocate 20).withFetchWord 32 0x00000002, _, ?_, rfl, rfl⟩
  unfold SessionInv RawReadyOwned PairReady ErrSweepNamed
  decide

/-- A state with two classified runs that has the ranges and is about to take a step. -/
theorem witness_EveryStepKeepsTheRegisterRanges : ∃ s t : State, RangeInv s ∧ step s = .next t := by
  refine ⟨s0.withFetchWord 32 0x00000001, _, ?_, rfl⟩
  unfold RangeInv SymbolsInRange MatchInRange LocInRange
  decide +kernel

end Sys2Proof.Tests
end

section
/-! ### The state family: what a step can do, who writes which register, and the ranges

First the decoder's command words, then what one transaction can do to the state (`Effect`) and to the registers of
one sweep (`SweepEffect`), said once; the statements about 10_state.md are read off these two. -/

namespace Sys2Proof

open Sys2Proof.Spec

/-! #### A word that decodes to a command is one of the table's (30_encoding.md R69) -/

/-- Masking a word masks its five fields (30_encoding.md R66). -/
theorem word_and_fields (w : Word) (mz : BitVec 15) (mn : BitVec 6) (mp : BitVec 2) (mr : BitVec 1) (mo : BitVec 8) :
    w &&& (mz ++ mn ++ mp ++ mr ++ mo) =
      (zField w &&& mz) ++ (nField w &&& mn) ++ (pField w &&& mp) ++ (rField w &&& mr) ++ (opField w &&& mo) := by
  calc w &&& (mz ++ mn ++ mp ++ mr ++ mo)
      = ((zField w ++ nField w ++ pField w ++ rField w ++ opField w : BitVec (15 + 6 + 2 + 1 + 8)) &&&
          (mz ++ mn ++ mp ++ mr ++ mo)) := congrArg (· &&& _) (word_eq_fields w)
    _ = _ := by simp only [BitVec.and_append]

/-- A word in a form of the table is a command word. -/
theorem isCommandWord_of_form {w : Word} {form : Word × Word} (hm : form ∈ commandForms)
    (h : w &&& form.2 = form.1) : isCommandWord w = true :=
  List.any_eq_true.2 ⟨form, hm, beq_iff_eq.2 h⟩

/-! Each of the four command forms accepts words of the table alone, and answers its own instruction. -/

section forms
variable {w : Word} {i j : Instr} {op : BitVec 8}

theorem formBare_accepts (hm : (0#15 ++ 0#6 ++ 0#2 ++ 0#1 ++ op, 0xFFFFFFFF#32) ∈ commandForms)
    (hi : isCommand i = true) (ho : opField w = op) (h : formBare w i = .ok j) :
    isCommandWord w = true ∧ isCommand j = true := by
  obtain ⟨⟨hr, hp, hn, hz⟩, rfl⟩ := formBare_ok.1 h
  have fields := word_and_fields w (.allOnes 15) (.allOnes 6) (.allOnes 2) (.allOnes 1) (.allOnes 8)
  simp only [hr, hp, hn, hz, ho, BitVec.and_allOnes] at fields
  exact ⟨isCommandWord_of_form hm fields, hi⟩

theorem formR_accepts (hm : (0#15 ++ 0#6 ++ 0#2 ++ 0#1 ++ op, 0xFFFFFEFF#32) ∈ commandForms)
    (hi : isCommand i = true) (ho : opField w = op) (h : formR w i = .ok j) :
    isCommandWord w = true ∧ isCommand j = true := by
  obtain ⟨⟨hp, hn, hz⟩, rfl⟩ := formR_ok.1 h
  have fields := word_and_fields w (.allOnes 15) (.allOnes 6) (.allOnes 2) 0#1 (.allOnes 8)
  simp only [hp, hn, hz, ho, BitVec.and_allOnes, BitVec.and_zero] at fields
  exact ⟨isCommandWord_of_form hm fields, hi⟩

theorem formP_accepts (hm : (0#15 ++ 0#6 ++ 0#2 ++ 0#1 ++ op, 0xFFFFF9FF#32) ∈ commandForms)
    (hi : isCommand i = true) (ho : opField w = op) (h : formP w i = .ok j) :
    isCommandWord w = true ∧ isCommand j = true := by
  obtain ⟨⟨hr, hn, hz⟩, rfl⟩ := formP_ok.1 h
  have fields := word_and_fields w (.allOnes 15) (.allOnes 6) 0#2 (.allOnes 1) (.allOnes 8)
  simp only [hr, hn, hz, ho, BitVec.and_allOnes, BitVec.and_zero] at fields
  exact ⟨isCommandWord_of_form hm fields, hi⟩

theorem formPN_accepts (hm : (0#15 ++ 0#6 ++ 0#2 ++ 0#1 ++ op, 0xFFFE01FF#32) ∈ commandForms)
    (hi : isCommand i = true) (ho : opField w = op) (h : formPN w i = .ok j) :
    isCommandWord w = true ∧ isCommand j = true := by
  obtain ⟨⟨hr, hz⟩, rfl⟩ := formPN_ok.1 h
  have fields := word_and_fields w (.allOnes 15) 0#6 0#2 (.allOnes 1) (.allOnes 8)
  simp only [hr, hz, ho, BitVec.and_allOnes, BitVec.and_zero] at fields
  exact ⟨isCommandWord_of_form hm fields, hi⟩

end forms

/-- The decoder accepts words of the table alone, and answers one of the fifteen commands (30_encoding.md R69,
R70). -/
theorem decodeCommand_accepts {w : Word} {i : Instr} (h : decodeCommand w = .ok i) :
    isCommandWord w = true ∧ isCommand i = true := by
  rcases decodeCommand_cases h with
    ⟨ho, hf⟩ | ⟨ho, hf⟩ | ⟨ho, hf⟩ | ⟨ho, hf⟩ | ⟨ho, hf⟩ | ⟨ho, hf⟩ | ⟨ho, hf⟩ | ⟨ho, hf⟩ | ⟨ho, hf⟩ | ⟨ho, hf⟩ |
    ⟨ho, hf⟩ | ⟨ho, hf⟩ | ⟨ho, hf⟩ | ⟨ho, hf⟩ | ⟨ho, hf⟩
  · exact formBare_accepts (by decide) rfl ho hf
  · exact formBare_accepts (by decide) rfl ho hf
  · exact formBare_accepts (by decide) rfl ho hf
  · exact formBare_accepts (by decide) rfl ho hf
  · exact formBare_accepts (by decide) rfl ho hf
  · exact formR_accepts (by decide) rfl ho hf
  · exact formR_accepts (by decide) rfl ho hf
  · exact formR_accepts (by decide) rfl ho hf
  · exact formR_accepts (by decide) rfl ho hf
  · exact formBare_accepts (by decide) rfl ho hf
  · exact formP_accepts (by decide) rfl ho hf
  · exact formP_accepts (by decide) rfl ho hf
  · exact formPN_accepts (by decide) rfl ho hf
  · exact formP_accepts (by decide) rfl ho hf
  · exact formBare_accepts (by decide) rfl ho hf

/-- A command is well formed: only a bus write can fail to be (log entry 4). -/
theorem wellFormed_of_isCommand {i : Instr} (h : isCommand i = true) : i.wellFormed = true := by
  cases i with
  | busWr a v => cases h
  | _ => rfl

end Sys2Proof

namespace Sys2Proof.Machine

open Sys2Proof.Spec

/-! #### The writable addresses (20_memory.md R52, R56) -/

/-- The registers a bus write reaches: CMD and the two words of ARG (20_memory.md R56). -/
def Register.writable : Register → Bool
  | .cmd => true
  | .argLo => true
  | .argHi => true
  | _ => false

theorem sweepRegister_not_writable (r : Rx) (n : Nat) : (sweepRegister r n).writable = false := by
  unfold sweepRegister
  split <;> rfl

theorem lowRegister_writable {n : Nat} (h : (lowRegister n).writable = true) : n = 0 ∨ n = 2 ∨ n = 3 := by
  unfold lowRegister at h
  split at h
  case h_1 => exact .inl rfl
  case h_3 => exact .inr (.inl rfl)
  case h_4 => exact .inr (.inr rfl)
  all_goals cases h

/-- Only the addresses of CMD, ARG_LO and ARG_HI name a writable register (20_memory.md R52). -/
theorem registerAt_writable {a : Addr} (h : (registerAt a).writable = true) :
    a = 0x000#9 ∨ a = 0x002#9 ∨ a = 0x003#9 := by
  by_cases low : a.toNat < 0x010
  · simp only [registerAt, if_pos low] at h
    have := lowRegister_writable h
    bv_omega
  · simp only [registerAt, if_neg low] at h
    split_ifs at h
    · rw [sweepRegister_not_writable] at h
      cases h
    all_goals cases h

/-- What a bus write does, by its address (20_memory.md R56). -/
theorem execBusWr_cases (a : Addr) (v : Word) (s : State) :
    (a = 0x000#9 ∧ execBusWr a v s = executeWord v s) ∨
      (a = 0x002#9 ∧ execBusWr a v s = .next { s with arg := withLow s.arg v }) ∨
      (a = 0x003#9 ∧ execBusWr a v s = .next { s with arg := withHigh s.arg v }) ∨
      ((a ≠ 0x000#9 ∧ a ≠ 0x002#9 ∧ a ≠ 0x003#9) ∧ execBusWr a v s = .next { s with busErr := true }) := by
  by_cases h0 : a = 0x000#9
  · subst h0
    exact .inl ⟨rfl, rfl⟩
  by_cases h2 : a = 0x002#9
  · subst h2
    exact .inr (.inl ⟨rfl, rfl⟩)
  by_cases h3 : a = 0x003#9
  · subst h3
    exact .inr (.inr (.inl ⟨rfl, rfl⟩))
  refine .inr (.inr (.inr ⟨⟨h0, h2, h3⟩, ?_⟩))
  have hw : (registerAt a).writable ≠ true := fun h => by
    rcases registerAt_writable h with e | e | e
    · exact h0 e
    · exact h2 e
    · exact h3 e
  unfold execBusWr
  cases hreg : registerAt a with
  | cmd => rw [hreg] at hw; exact absurd rfl hw
  | argLo => rw [hreg] at hw; exact absurd rfl hw
  | argHi => rw [hreg] at hw; exact absurd rfl hw
  | _ => rfl

/-! #### What one transaction can do to the state -/

/-- What an instruction that answers a next state can have done, with the conditions under which it does it
(45_session_orchestrator.md R118 to R124; 30_encoding.md R70; 20_memory.md R55 to R57).  `exec_effect` says that this
is all. -/
inductive Effect (s : State) : Instr → State → Prop
  | started : Effect s .start { clearSession s with session := .running }
  | stopped : Effect s .stop { s with session := .idle }
  | reset : Effect s .reset (hardwareReset s)
  | advanced (ha : captureArmed s = true) (hr : buffersReady s = true) : Effect s .tryAdvance (advance s)
  | notAdvanced (h : ¬(captureArmed s = true ∧ buffersReady s = true)) : Effect s .tryAdvance s
  | located {i0 i1 : ActiveIx} (h : s.session = .rawDataReady) (h0 : s.sweep0.poly = some i0)
      (h1 : s.sweep1.poly = some i1) :
      Effect s .processLocation (finishLocation s (locateSeed s.rom i0 s.sweep0) (locateSeed s.rom i1 s.sweep1))
  | notLocated (h : s.session ≠ .rawDataReady) : Effect s .processLocation s
  | rejected {i : Instr} (hd : isDiagnostic i = true) (h : s.session ≠ .idle) :
      Effect s i { s with illegal := true }
  | classified (h : s.session = .idle) (r : Rx) :
      Effect s (.classify r)
        { s.setSweep r (classifySweep (s.sweep r)) with
          leaf := if (classifySweep (s.sweep r)).ovf then .overflow else .none }
  | resolved (h : s.session = .idle) (r : Rx) :
      Effect s (.resolve r) { s.setSweep r (resolveSweep (s.sweep r)) with leaf := .none }
  | matched (h : s.session = .idle) (r : Rx) :
      Effect s (.matchSweep r)
        { s.setSweep r (recordMatch (matchChips s.rom (s.sweep r).chips) (s.sweep r)) with
          leaf := matchLeaf (matchChips s.rom (s.sweep r).chips) }
  | counted (h : s.session = .idle) (r : Rx) :
      Effect s (.locate r)
        { s.setSweep r { s.sweep r with loc := (locateSweep s.rom (s.sweep r)).1 } with
          leaf := (locateSweep s.rom (s.sweep r)).2 }
  | computed {i : Instr} (hl : isLeaf i = true) (v : BitVec 64) (c : LeafCode) :
      Effect s i { s with res := v, leaf := c }
  | read (a : Addr) : Effect s (.busRd a) { s with replies := s.replies ++ [memRead s a] }
  | noCommand (v : Word) : Effect s (.busWr 0x000#9 v) { s with illegal := true }
  | argLoWritten (v : Word) : Effect s (.busWr 0x002#9 v) { s with arg := withLow s.arg v }
  | argHiWritten (v : Word) : Effect s (.busWr 0x003#9 v) { s with arg := withHigh s.arg v }
  | writeRefused {a : Addr} (ha : a ≠ 0x000#9 ∧ a ≠ 0x002#9 ∧ a ≠ 0x003#9) (v : Word) :
      Effect s (.busWr a v) { s with busErr := true }
  | captured {r : Rx} (ha : captureArmed s = true) (hf : (s.sweep r).full = false) (d : RawBuffer) :
      Effect s (.cap r d) (s.setSweep r { s.sweep r with raw := d, full := true })
  | captureRefused {r : Rx} (h : ¬(captureArmed s = true ∧ (s.sweep r).full = false)) (d : RawBuffer) :
      Effect s (.cap r d) { s with capRej := true }

/-- A diagnostic command is rejected outside IDLE, and has its effect in IDLE (30_encoding.md R70). -/
theorem effect_diagnostic {i : Instr} {s x : State} (hi : isDiagnostic i = true)
    (hx : s.session = .idle → Effect s i x) : Effect s i (diagnostic s x) := by
  rcases diagnostic_cases s x with ⟨h, e⟩ | ⟨h, e⟩
  · rw [e]
    exact hx h
  · rw [e]
    exact .rejected hi h

/-- A capture is accepted or refused (20_memory.md R57). -/
theorem effect_deliver (s : State) (r : Rx) (d : RawBuffer) : Effect s (.cap r d) (deliver s r d) := by
  rcases deliver_cases s r d with ⟨ha, hf, e⟩ | ⟨h, e⟩
  · rw [e]
    exact .captured ha hf d
  · rw [e]
    exact .captureRefused h d

/-- What a TRY_ADVANCE can do (45_session_orchestrator.md R118). -/
theorem effect_tryAdvance {s t : State} (h : execTryAdvance s = .next t) : Effect s .tryAdvance t := by
  rcases execTryAdvance_cases s with ⟨ha, hr, e⟩ | ⟨hn, e⟩
  · cases e.symm.trans h
    exact .advanced ha hr
  · cases e.symm.trans h
    exact .notAdvanced hn

/-- What a PROCESS_LOCATION with a next state can do (45_session_orchestrator.md R121). -/
theorem effect_processLocation {s t : State} (h : execProcessLocation s = .next t) : Effect s .processLocation t := by
  rcases execProcessLocation_cases s with ⟨hn, e⟩ | ⟨i0, i1, hs, h0, h1, e⟩ | ⟨-, -, e⟩
  · cases e.symm.trans h
    exact .notLocated hn
  · cases e.symm.trans h
    exact .located hs h0 h1
  · cases e.symm.trans h

/-- What each of the fifteen commands can do. -/
theorem command_effect {i : Instr} {s t : State} (hi : isCommand i = true) (h : exec i s = .next t) :
    Effect s i t := by
  cases i with
  | start => cases h; exact .started
  | stop => cases h; exact .stopped
  | reset => cases h; exact .reset
  | tryAdvance => exact effect_tryAdvance h
  | processLocation => exact effect_processLocation h
  | classify r => cases h; exact effect_diagnostic rfl fun h => .classified h r
  | resolve r => cases h; exact effect_diagnostic rfl fun h => .resolved h r
  | matchSweep r => cases h; exact effect_diagnostic rfl fun h => .matched h r
  | locate r => cases h; exact effect_diagnostic rfl fun h => .counted h r
  | popcount => cases h; exact .computed rfl _ _
  | lfsrFwd p => cases h; exact .computed rfl _ _
  | lfsrBack p => cases h; exact .computed rfl _ _
  | polyCheck p n => cases h; exact .computed rfl _ _
  | reverseCount p => cases h; exact .computed rfl _ _
  | matchArg => cases h; exact .computed rfl _ _
  | busRd a => cases hi
  | busWr a v => cases hi
  | cap r d => cases hi

/-- Running a decoded command is executing the command itself (30_encoding.md R70; log entry 4). -/
theorem runCommand_eq_exec {i : Instr} (hi : isCommand i = true) (s : State) : runCommand i s = exec i s := by
  cases i with
  | busRd a => cases hi
  | busWr a v => cases hi
  | cap r d => cases hi
  | _ => rfl

/-- What a word written to CMD does: the command it spells, or ILLEGAL (30_encoding.md R70). -/
theorem executeWord_cases (v : Word) (s : State) :
    (∃ i, isCommandWord v = true ∧ isCommand i = true ∧ executeWord v s = exec i s) ∨
      executeWord v s = .next { s with illegal := true } := by
  unfold executeWord
  cases hd : decodeCommand v with
  | ok i =>
    obtain ⟨hw, hi⟩ := decodeCommand_accepts hd
    exact .inl ⟨i, hw, hi, runCommand_eq_exec hi s⟩
  | error e => exact .inr rfl

/-- What a bus write can do: its own effect, or that of the command it spells, and then it is no well-formed term
(20_memory.md R56; log entry 4). -/
theorem busWr_effect {a : Addr} {v : Word} {s t : State} (h : execBusWr a v s = .next t) :
    Effect s (.busWr a v) t ∨ ((Instr.busWr a v).wellFormed = false ∧ ∃ j, Effect s j t) := by
  rcases execBusWr_cases a v s with ⟨rfl, e⟩ | ⟨rfl, e⟩ | ⟨rfl, e⟩ | ⟨ha, e⟩
  · rcases executeWord_cases v s with ⟨j, hw, hj, e'⟩ | e'
    · have notWellFormed : (Instr.busWr 0x000#9 v).wellFormed = false := by simp [Instr.wellFormed, hw]
      exact .inr ⟨notWellFormed, j, command_effect hj ((e.trans e').symm.trans h)⟩
    · cases (e.trans e').symm.trans h
      exact .inl (.noCommand v)
  · cases e.symm.trans h
    exact .inl (.argLoWritten v)
  · cases e.symm.trans h
    exact .inl (.argHiWritten v)
  · cases e.symm.trans h
    exact .inl (.writeRefused ha v)

/-- An instruction that answers a next state has one of its own effects; a bus write that is no well-formed term has
an effect of the command it spells (log entry 4). -/
theorem exec_effect_or {i : Instr} {s t : State} (h : exec i s = .next t) :
    Effect s i t ∨ (i.wellFormed = false ∧ ∃ j, Effect s j t) := by
  cases i with
  | busRd a => cases h; exact .inl (.read a)
  | busWr a v => exact busWr_effect h
  | cap r d => cases h; exact .inl (effect_deliver s r d)
  | _ => exact .inl (command_effect rfl h)

/-- What a well-formed instruction can do. -/
theorem exec_effect {i : Instr} {s t : State} (hw : i.wellFormed = true) (h : exec i s = .next t) : Effect s i t := by
  rcases exec_effect_or h with e | ⟨hn, -⟩
  · exact e
  · rw [hw] at hn
    cases hn

/-- What any instruction term can do is an effect of some instruction. -/
theorem exec_effect_exists {i : Instr} {s t : State} (h : exec i s = .next t) : ∃ j, Effect s j t := by
  rcases exec_effect_or h with e | ⟨-, e⟩
  · exact ⟨i, e⟩
  · exact e

/-! #### The registers that a decoding TRY_ADVANCE and a locating PROCESS_LOCATION leave -/

section advance
variable (s : State)

/-- TRY_ADVANCE writes STATE, ERR, ERR_SWEEP and the two sweeps, decoded, with FULL (45_session_orchestrator.md
R118). -/
theorem advance_frame :
    advance s =
      { s with
        session := (advance s).session
        sweep0 := { decodeSweep s.rom s.sweep0 with full := (advance s).sweep0.full }
        sweep1 := { decodeSweep s.rom s.sweep1 with full := (advance s).sweep1.full }
        err := (advance s).err
        errSweep := (advance s).errSweep } := by
  rcases advance_cases s with ⟨-, e⟩ | ⟨-, e⟩ <;> rw [e]

@[simp] theorem advance_pair0 : (advance s).pair0 = s.pair0 := by rw [advance_frame]
@[simp] theorem advance_pair1 : (advance s).pair1 = s.pair1 := by rw [advance_frame]
@[simp] theorem advance_swapped : (advance s).swapped = s.swapped := by rw [advance_frame]
@[simp] theorem advance_leaf : (advance s).leaf = s.leaf := by rw [advance_frame]
@[simp] theorem advance_illegal : (advance s).illegal = s.illegal := by rw [advance_frame]
@[simp] theorem advance_busErr : (advance s).busErr = s.busErr := by rw [advance_frame]
@[simp] theorem advance_capRej : (advance s).capRej = s.capRej := by rw [advance_frame]
@[simp] theorem advance_arg : (advance s).arg = s.arg := by rw [advance_frame]
@[simp] theorem advance_res : (advance s).res = s.res := by rw [advance_frame]
@[simp] theorem advance_rom : (advance s).rom = s.rom := by rw [advance_frame]
@[simp] theorem advance_pending : (advance s).pending = s.pending := by rw [advance_frame]

end advance

section finishLocation
variable (s : State) (c0 c1 : Option Word)

/-- PROCESS_LOCATION writes STATE, ERR, ERR_SWEEP, the pair and SWAPPED, and of the two sweeps LOC and FULL
(45_session_orchestrator.md R119 to R121). -/
theorem finishLocation_frame :
    finishLocation s c0 c1 =
      { s with
        session := (finishLocation s c0 c1).session
        sweep0 := { s.sweep0 with loc := locOf c0, full := false }
        sweep1 := { s.sweep1 with loc := locOf c1, full := false }
        pair0 := (finishLocation s c0 c1).pair0
        pair1 := (finishLocation s c0 c1).pair1
        swapped := (finishLocation s c0 c1).swapped
        err := (finishLocation s c0 c1).err
        errSweep := (finishLocation s c0 c1).errSweep } := by
  by_cases h : c0 = none ∨ c1 = none
  · rw [finishLocation_timeout s h]
  · obtain ⟨h0, h1⟩ := not_or.1 h
    obtain ⟨l0, rfl⟩ := Option.ne_none_iff_exists'.1 h0
    obtain ⟨l1, rfl⟩ := Option.ne_none_iff_exists'.1 h1
    rw [finishLocation_located]
    generalize e : ({ s with sweep0 := _, sweep1 := _ } : State) = t
    rcases orderPair_cases t with ⟨-, e'⟩ | ⟨-, e'⟩ <;> rw [e', ← e] <;> rfl

@[simp] theorem finishLocation_leaf : (finishLocation s c0 c1).leaf = s.leaf := by rw [finishLocation_frame]
@[simp] theorem finishLocation_illegal : (finishLocation s c0 c1).illegal = s.illegal := by rw [finishLocation_frame]
@[simp] theorem finishLocation_busErr : (finishLocation s c0 c1).busErr = s.busErr := by rw [finishLocation_frame]
@[simp] theorem finishLocation_capRej : (finishLocation s c0 c1).capRej = s.capRej := by rw [finishLocation_frame]
@[simp] theorem finishLocation_arg : (finishLocation s c0 c1).arg = s.arg := by rw [finishLocation_frame]
@[simp] theorem finishLocation_res : (finishLocation s c0 c1).res = s.res := by rw [finishLocation_frame]
@[simp] theorem finishLocation_rom : (finishLocation s c0 c1).rom = s.rom := by rw [finishLocation_frame]
@[simp] theorem finishLocation_pending : (finishLocation s c0 c1).pending = s.pending := by
  rw [finishLocation_frame]

end finishLocation

/-- The tables and the queue of pending transactions are in no effect. -/
theorem effect_constants {i : Instr} {s t : State} (e : Effect s i t) : t.rom = s.rom ∧ t.pending = s.pending := by
  cases e with
  | advanced ha hr => exact ⟨advance_rom s, advance_pending s⟩
  | located h h0 h1 => exact ⟨finishLocation_rom s _ _, finishLocation_pending s _ _⟩
  | classified h r => exact ⟨setSweep_rom s r _, setSweep_pending s r _⟩
  | resolved h r => exact ⟨setSweep_rom s r _, setSweep_pending s r _⟩
  | matched h r => exact ⟨setSweep_rom s r _, setSweep_pending s r _⟩
  | counted h r => exact ⟨setSweep_rom s r _, setSweep_pending s r _⟩
  | captured ha hf d => exact ⟨setSweep_rom s _ _, setSweep_pending s _ _⟩
  | _ => exact ⟨rfl, rfl⟩

/-- Settles O54: every instruction term has one of the effects, and none of them writes a constant. -/
theorem tablesAreConstant : Obligations.TablesAreConstant := by
  intro i s t h
  obtain ⟨j, e⟩ := exec_effect_exists h
  exact effect_constants e

/-! #### The sticky bits (10_state.md R44) -/

section kinds
variable {i : Instr}

/-- A leaf command rejects nothing: it is legal in every state and is no bus write and no capture. -/
theorem leaf_rejects_nothing (h : isLeaf i = true) (s : State) :
    rejectsWord i s = false ∧ badWrite i = false ∧ ¬refusedCap i s := by
  cases i with
  | popcount => exact ⟨rfl, rfl, id⟩
  | lfsrFwd p => exact ⟨rfl, rfl, id⟩
  | lfsrBack p => exact ⟨rfl, rfl, id⟩
  | polyCheck p n => exact ⟨rfl, rfl, id⟩
  | reverseCount p => exact ⟨rfl, rfl, id⟩
  | matchArg => exact ⟨rfl, rfl, id⟩
  | _ => cases h

/-- A diagnostic command rejects its word outside IDLE, and nothing else (30_encoding.md R70). -/
theorem diagnostic_rejects (h : isDiagnostic i = true) (s : State) :
    (rejectsWord i s = true ↔ s.session ≠ .idle) ∧ badWrite i = false ∧ ¬refusedCap i s := by
  cases i with
  | classify r => exact ⟨bne_iff_ne, rfl, id⟩
  | resolve r => exact ⟨bne_iff_ne, rfl, id⟩
  | matchSweep r => exact ⟨bne_iff_ne, rfl, id⟩
  | locate r => exact ⟨bne_iff_ne, rfl, id⟩
  | _ => cases h

end kinds

/-- What the capture port accepts, in the spec's terms (20_memory.md R57). -/
theorem capAccepted_iff (s : State) (r : Rx) :
    capAccepted s r ↔ captureArmed s = true ∧ (s.sweep r).full = false := by
  rw [capAccepted, captureArmed_iff]

/-- What holds of the three sticky bits after an instruction other than RESET (10_state.md R44). -/
def stickyBitsOf (i : Instr) (s t : State) : Prop :=
  (t.illegal = true ↔ s.illegal = true ∨ rejectsWord i s = true) ∧
    (t.busErr = true ↔ s.busErr = true ∨ badWrite i = true) ∧
    (t.capRej = true ↔ s.capRej = true ∨ refusedCap i s)

/-- An instruction that rejects nothing and touches no sticky bit. -/
theorem stickyBitsOf_same {i : Instr} {s t : State}
    (h : rejectsWord i s = false ∧ badWrite i = false ∧ ¬refusedCap i s)
    (hi : t.illegal = s.illegal) (hb : t.busErr = s.busErr) (hc : t.capRej = s.capRej) : stickyBitsOf i s t := by
  obtain ⟨hr, hw, hp⟩ := h
  simp [stickyBitsOf, hi, hb, hc, hr, hw, hp]

/-- A diagnostic command that is performed in IDLE rejects nothing. -/
theorem diagnostic_rejects_nothing {i : Instr} {s : State} (hd : isDiagnostic i = true) (h : s.session = .idle) :
    rejectsWord i s = false ∧ badWrite i = false ∧ ¬refusedCap i s := by
  obtain ⟨hr, hw, hp⟩ := diagnostic_rejects hd s
  exact ⟨Bool.eq_false_iff.2 fun hrej => hr.1 hrej h, hw, hp⟩

/-- Each effect but RESET's sets the sticky bit of its own rejection, and leaves the others. -/
theorem effect_stickyBits {i : Instr} {s t : State} (e : Effect s i t) (hi : i ≠ .reset) : stickyBitsOf i s t := by
  cases e with
  | reset => exact absurd rfl hi
  | started => exact stickyBitsOf_same ⟨rfl, rfl, id⟩ rfl rfl rfl
  | stopped => exact stickyBitsOf_same ⟨rfl, rfl, id⟩ rfl rfl rfl
  | advanced ha hr =>
    exact stickyBitsOf_same ⟨rfl, rfl, id⟩ (advance_illegal s) (advance_busErr s) (advance_capRej s)
  | notAdvanced h => exact stickyBitsOf_same ⟨rfl, rfl, id⟩ rfl rfl rfl
  | located h h0 h1 =>
    exact stickyBitsOf_same ⟨rfl, rfl, id⟩ (finishLocation_illegal s _ _) (finishLocation_busErr s _ _)
      (finishLocation_capRej s _ _)
  | notLocated h => exact stickyBitsOf_same ⟨rfl, rfl, id⟩ rfl rfl rfl
  | rejected hd h =>
    obtain ⟨hr, hw, hp⟩ := diagnostic_rejects hd s
    simp [stickyBitsOf, hr.2 h, hw, hp]
  | classified h r => exact stickyBitsOf_same (diagnostic_rejects_nothing rfl h) (by simp) (by simp) (by simp)
  | resolved h r => exact stickyBitsOf_same (diagnostic_rejects_nothing rfl h) (by simp) (by simp) (by simp)
  | matched h r => exact stickyBitsOf_same (diagnostic_rejects_nothing rfl h) (by simp) (by simp) (by simp)
  | counted h r => exact stickyBitsOf_same (diagnostic_rejects_nothing rfl h) (by simp) (by simp) (by simp)
  | computed hl v c => exact stickyBitsOf_same (leaf_rejects_nothing hl s) rfl rfl rfl
  | read a => exact stickyBitsOf_same ⟨rfl, rfl, id⟩ rfl rfl rfl
  | noCommand v => simp [stickyBitsOf, rejectsWord, badWrite, refusedCap]
  | argLoWritten v => exact stickyBitsOf_same ⟨rfl, rfl, id⟩ rfl rfl rfl
  | argHiWritten v => exact stickyBitsOf_same ⟨rfl, rfl, id⟩ rfl rfl rfl
  | writeRefused ha v => simp [stickyBitsOf, rejectsWord, badWrite, refusedCap, ha]
  | captured ha hf d =>
    have accepted : ¬refusedCap (.cap _ d) s := fun h => h ((capAccepted_iff s _).2 ⟨ha, hf⟩)
    exact stickyBitsOf_same ⟨rfl, rfl, accepted⟩ (by simp) (by simp) (by simp)
  | captureRefused h d =>
    have refused : refusedCap (.cap _ d) s := fun ha => h ((capAccepted_iff s _).1 ha)
    simp [stickyBitsOf, rejectsWord, isDiagnostic, badWrite, refused]

/-- Settles O52, by the effects of a well-formed instruction. -/
theorem stickyBitsRecordRejections : Obligations.StickyBitsRecordRejections := by
  intro i s t hw h
  split
  case isTrue hi =>
    subst hi
    cases h
    exact ⟨rfl, rfl, rfl⟩
  case isFalse hi => exact effect_stickyBits (exec_effect hw h) hi

/-! #### What one transaction can do to the registers of one sweep -/

/-- What an instruction can leave in the registers of sweep r that were `x` (10_state.md R23 to R38).
`effect_sweep` says that this is all. -/
inductive SweepEffect (rom : Rom) (r : Rx) (x : Sweep) : Instr → Sweep → Prop
  | kept {i : Instr} : SweepEffect rom r x i x
  | started : SweepEffect rom r x .start Sweep.reset
  | reset : SweepEffect rom r x .reset Sweep.reset
  | decoded (full : Bool) : SweepEffect rom r x .tryAdvance { decodeSweep rom x with full := full }
  | located (p : ActiveIx) :
      SweepEffect rom r x .processLocation { x with loc := locOf (locateSeed rom p x), full := false }
  | captured (d : RawBuffer) : SweepEffect rom r x (.cap r d) { x with raw := d, full := true }
  | classified : SweepEffect rom r x (.classify r) (classifySweep x)
  | resolved : SweepEffect rom r x (.resolve r) (resolveSweep x)
  | matched : SweepEffect rom r x (.matchSweep r) (recordMatch (matchChips rom x.chips) x)
  | counted : SweepEffect rom r x (.locate r) { x with loc := (locateSweep rom x).1 }

/-- An instruction on one sweep has its effect there and keeps the other sweep. -/
theorem sweepEffect_setSweep {rom : Rom} {i : Instr} {s : State} {q : Rx} {x : Sweep}
    (h : SweepEffect rom q (s.sweep q) i x) (r : Rx) :
    SweepEffect rom r (s.sweep r) i ((s.setSweep q x).sweep r) := by
  by_cases hr : r = q
  · subst hr
    rwa [sweep_setSweep_same]
  · rw [sweep_setSweep_other s x hr]
    exact .kept

/-- What the effects of an instruction are on the registers of a sweep. -/
theorem effect_sweep {i : Instr} {s t : State} (e : Effect s i t) (r : Rx) :
    SweepEffect s.rom r (s.sweep r) i (t.sweep r) := by
  cases e with
  | started =>
    match r with
    | 0 => exact .started
    | 1 => exact .started
  | reset =>
    match r with
    | 0 => exact .reset
    | 1 => exact .reset
  | advanced ha hr =>
    rw [advance_frame]
    match r with
    | 0 => exact .decoded _
    | 1 => exact .decoded _
  | located h h0 h1 =>
    rw [finishLocation_frame]
    match r with
    | 0 => exact .located _
    | 1 => exact .located _
  | classified h q => exact sweepEffect_setSweep .classified r
  | resolved h q => exact sweepEffect_setSweep .resolved r
  | matched h q => exact sweepEffect_setSweep .matched r
  | counted h q => exact sweepEffect_setSweep .counted r
  | captured ha hf d => exact sweepEffect_setSweep (.captured d) r
  | _ => exact .kept

/-! #### Who writes which register (10_state.md R22 to R46) -/

section writers
variable {i : Instr} {s t : State}

/-- STATE (R22). -/
theorem session_writers (e : Effect s i t) (hi : i ≠ .reset) :
    t.session ≠ s.session → i = .start ∨ i = .stop ∨ i = .tryAdvance ∨ i = .processLocation := by
  cases e with
  | reset => exact absurd rfl hi
  | _ => simp

/-- ARG (R45). -/
theorem arg_writers (e : Effect s i t) (hi : i ≠ .reset) :
    t.arg ≠ s.arg → ∃ v, i = .busWr 0x002#9 v ∨ i = .busWr 0x003#9 v := by
  cases e with
  | reset => exact absurd rfl hi
  | argLoWritten v => exact fun _ => ⟨v, .inl rfl⟩
  | argHiWritten v => exact fun _ => ⟨v, .inr rfl⟩
  | started => exact fun h => absurd rfl h
  | _ => simp

/-- RES (R46). -/
theorem res_writers (e : Effect s i t) (hi : i ≠ .reset) : t.res ≠ s.res → isLeaf i = true := by
  cases e with
  | reset => exact absurd rfl hi
  | computed hl v c => exact fun _ => hl
  | started => exact fun h => absurd rfl h
  | _ => simp

/-- LEAF (R43). -/
theorem leaf_writers (e : Effect s i t) (hi : i ≠ .reset) :
    t.leaf ≠ s.leaf → isLeaf i = true ∨ isDiagnostic i = true := by
  cases e with
  | reset => exact absurd rfl hi
  | computed hl v c => exact fun _ => .inl hl
  | started => exact fun h => absurd rfl h
  | _ => simp [isDiagnostic]

/-- ERR and ERR_SWEEP (R42). -/
theorem err_writers (e : Effect s i t) (hi : i ≠ .reset) :
    t.err ≠ s.err ∨ t.errSweep ≠ s.errSweep → i = .start ∨ i = .tryAdvance ∨ i = .processLocation := by
  cases e with
  | reset => exact absurd rfl hi
  | _ => simp

/-- PAIR and SWAPPED (R39, R40). -/
theorem pair_writers (e : Effect s i t) (hi : i ≠ .reset) :
    t.pair0 ≠ s.pair0 ∨ t.pair1 ≠ s.pair1 ∨ t.swapped ≠ s.swapped → i = .start ∨ i = .processLocation := by
  cases e with
  | reset => exact absurd rfl hi
  | _ => simp

/-- ILLEGAL (R44). -/
theorem illegal_writers (e : Effect s i t) (hi : i ≠ .reset) :
    t.illegal ≠ s.illegal → isDiagnostic i = true ∨ ∃ v, i = .busWr 0x000#9 v := by
  cases e with
  | reset => exact absurd rfl hi
  | rejected hd h => exact fun _ => .inl hd
  | noCommand v => exact fun _ => .inr ⟨v, rfl⟩
  | started => exact fun h => absurd rfl h
  | _ => simp

/-- BUSERR (R44). -/
theorem busErr_writers (e : Effect s i t) (hi : i ≠ .reset) : t.busErr ≠ s.busErr → ∃ a v, i = .busWr a v := by
  cases e with
  | reset => exact absurd rfl hi
  | writeRefused ha v => exact fun _ => ⟨_, v, rfl⟩
  | started => exact fun h => absurd rfl h
  | _ => simp

/-- CAPREJ (R44). -/
theorem capRej_writers (e : Effect s i t) (hi : i ≠ .reset) : t.capRej ≠ s.capRej → ∃ q d, i = .cap q d := by
  cases e with
  | reset => exact absurd rfl hi
  | captureRefused h d => exact fun _ => ⟨_, d, rfl⟩
  | started => exact fun h => absurd rfl h
  | _ => simp

end writers

section sweepWriters
variable {rom : Rom} {r : Rx} {x y : Sweep} {i : Instr}

/-- RAW (R23). -/
theorem raw_writers (e : SweepEffect rom r x i y) (hi : i ≠ .reset) :
    y.raw ≠ x.raw → i = .start ∨ ∃ d, i = .cap r d := by
  cases e with
  | reset => exact absurd rfl hi
  | _ => simp

/-- FULL (R24). -/
theorem full_writers (e : SweepEffect rom r x i y) (hi : i ≠ .reset) :
    y.full ≠ x.full → i = .start ∨ i = .tryAdvance ∨ i = .processLocation ∨ ∃ d, i = .cap r d := by
  cases e with
  | reset => exact absurd rfl hi
  | _ => simp

/-- NSYM, RUNLEN, SYM, OVF and EXCL (R25 to R29). -/
theorem symbol_writers (e : SweepEffect rom r x i y) (hi : i ≠ .reset) :
    y.nsym ≠ x.nsym ∨ y.runlen ≠ x.runlen ∨ y.sym ≠ x.sym ∨ y.ovf ≠ x.ovf ∨ y.excl ≠ x.excl →
      i = .start ∨ i = .tryAdvance ∨ i = .classify r := by
  cases e with
  | reset => exact absurd rfl hi
  | _ => simp

/-- RSYM (R30; log entry 8). -/
theorem rsym_writers (e : SweepEffect rom r x i y) (hi : i ≠ .reset) :
    y.rsym ≠ x.rsym → i = .start ∨ i = .tryAdvance ∨ i = .resolve r ∨ i = .classify r := by
  cases e with
  | reset => exact absurd rfl hi
  | _ => simp

/-- SKIP0 and CHIPS (R31, R32). -/
theorem chips_writers (e : SweepEffect rom r x i y) (hi : i ≠ .reset) :
    y.skip0 ≠ x.skip0 ∨ y.chips ≠ x.chips → i = .start ∨ i = .tryAdvance ∨ i = .resolve r := by
  cases e with
  | reset => exact absurd rfl hi
  | _ => simp

/-- POLY, OFFSET, WINDOW, THR, DIST0 and DIST1 (R33 to R37). -/
theorem match_writers (e : SweepEffect rom r x i y) (hi : i ≠ .reset) :
    y.poly ≠ x.poly ∨ y.offset ≠ x.offset ∨ y.window ≠ x.window ∨ y.thr ≠ x.thr ∨ y.dist0 ≠ x.dist0 ∨
        y.dist1 ≠ x.dist1 →
      i = .start ∨ i = .tryAdvance ∨ i = .matchSweep r := by
  cases e with
  | reset => exact absurd rfl hi
  | _ => simp

/-- LOC (R38). -/
theorem loc_writers (e : SweepEffect rom r x i y) (hi : i ≠ .reset) :
    y.loc ≠ x.loc → i = .start ∨ i = .tryAdvance ∨ i = .processLocation ∨ i = .locate r := by
  cases e with
  | reset => exact absurd rfl hi
  | _ => simp

end sweepWriters

/-- Settles O53: register by register, over the effects on the state and on the sweep. -/
theorem registersChangeOnlyUnderTheirWriters : Obligations.RegistersChangeOnlyUnderTheirWriters := by
  intro i s t hw h hi
  have e : Effect s i t := exec_effect hw h
  refine ⟨session_writers e hi, arg_writers e hi, res_writers e hi, leaf_writers e hi, err_writers e hi,
    pair_writers e hi, illegal_writers e hi, busErr_writers e hi, capRej_writers e hi, fun r => ?_⟩
  have e' : SweepEffect s.rom r (s.sweep r) i (t.sweep r) := effect_sweep e r
  exact ⟨raw_writers e' hi, full_writers e' hi, symbol_writers e' hi, rsym_writers e' hi, chips_writers e' hi,
    match_writers e' hi, loc_writers e' hi⟩

/-! #### The ranges of a sweep's registers (10_state.md R25 to R38) -/

/-- One sweep's share of `RangeInv`. -/
def SweepInRange (rom : Rom) (x : Sweep) : Prop := SymbolsInRange x ∧ MatchInRange x ∧ LocInRange rom x

theorem rangeInv_iff (s : State) : RangeInv s ↔ ∀ r, SweepInRange s.rom (s.sweep r) := Iff.rfl

/-! ##### The symbols (R25 to R28, R30) -/

theorem symbolsInRange_reset : SymbolsInRange Sweep.reset := by
  refine ⟨Nat.zero_le _, fun j hj => absurd hj (Nat.not_lt_zero _), fun j _ => ?_, fun _ => rfl⟩
  simp [Sweep.reset]

theorem rawBitList_length (d : RawBuffer) : (rawBitList d).length = Config.rawBits := by
  simp [rawBitList, byteBits, List.length_flatMap]

/-- A run that is closed has at least one bit, and the bit that closes it lies past its end (41_bit_classifier.md
R76). -/
theorem closedRunsFrom_bounds (bits : List Bool) :
    ∀ (prev : Bool) (len : Nat), 1 ≤ len → ∀ l ∈ closedRunsFrom prev len bits, 1 ≤ l ∧ l < len + bits.length := by
  induction bits with
  | nil =>
    intro prev len hlen l hl
    cases hl
  | cons b rest ih =>
    intro prev len hlen l hl
    simp only [closedRunsFrom, List.length_cons] at hl ⊢
    split at hl
    · have := ih prev (len + 1) (by omega) l hl
      omega
    · rcases List.mem_cons.1 hl with rfl | hl
      · omega
      · have := ih b 1 le_rfl l hl
        omega

/-- A closed run of a stream is shorter than the stream. -/
theorem closedRuns_bounds {bits : List Bool} {l : Nat} (hl : l ∈ closedRuns bits) : 1 ≤ l ∧ l < bits.length := by
  cases bits with
  | nil => cases hl
  | cons b rest =>
    have := closedRunsFrom_bounds rest b 1 le_rfl l hl
    simp only [List.length_cons]
    omega

/-- Recording runs of lengths 1 to 1023 leaves the symbol registers in their ranges, whatever they held. -/
theorem symbolsInRange_recordRuns {runs : List Nat} (hruns : ∀ l ∈ runs, 1 ≤ l ∧ l ≤ 1023) (x : Sweep) :
    SymbolsInRange (recordRuns runs x) := by
  unfold recordRuns
  split
  case isTrue h =>
    refine ⟨Nat.zero_le _, fun j hj => absurd hj (Nat.not_lt_zero _), fun j _ => ?_, fun _ => rfl⟩
    simp
  case isFalse h =>
    have count : (BitVec.ofNat 8 runs.length).toNat = runs.length := by
      rw [BitVec.toNat_ofNat, Nat.mod_eq_of_lt]
      simp only [Config.symCap] at h
      omega
    refine ⟨?_, fun j hj => ?_, fun j hj => ?_, fun ovf => by cases ovf⟩
    · rw [count]
      exact Nat.not_lt.1 h
    · rw [count] at hj
      have bounds := hruns runs[j.val] (List.getElem_mem hj)
      have length : (BitVec.ofNat 11 runs[j.val]).toNat = runs[j.val] := by
        rw [BitVec.toNat_ofNat, Nat.mod_eq_of_lt (by omega)]
      simp [hj, length, bounds]
    · rw [count] at hj
      simp [hj]

/-- A classification leaves the symbol registers in their ranges. -/
theorem symbolsInRange_classifySweep (x : Sweep) : SymbolsInRange (classifySweep x) := by
  refine symbolsInRange_recordRuns (fun l hl => ?_) x
  have := closedRuns_bounds hl
  rw [rawBitList_length, Config.rawBits] at this
  omega

theorem forwardAt_length (lo : Nat) (c : List Ternary) (i : Nat) : (forwardAt lo c i).length = c.length := by
  unfold forwardAt
  split_ifs <;> simp

theorem cleanupAt_length (lo : Nat) (c : List Ternary) (i : Nat) : (cleanupAt lo c i).length = c.length := by
  unfold cleanupAt
  split
  · split_ifs <;> simp
  · simp
  · rfl

/-- A pass whose steps keep the number of symbols keeps it (42_chip_resolver.md R83). -/
theorem scanPass_length {step : List Ternary → Nat → List Ternary} (h : ∀ c i, (step c i).length = c.length)
    (c : List Ternary) : (scanPass step c).length = c.length := by
  unfold scanPass
  generalize List.range c.length = positions
  induction positions generalizing c with
  | nil => rfl
  | cons i rest ih => rw [List.foldl_cons, ih, h]

/-- Resolving neither adds nor drops a symbol (42_chip_resolver.md R83 to R87). -/
theorem resolveSymbols_length (excl : Bool) (c : List Ternary) : (resolveSymbols excl c).length = c.length := by
  rw [resolveSymbols, scanPass_length (cleanupAt_length _), scanPass_length (forwardAt_length _)]

/-- There are at most NSYM resolved symbols. -/
theorem resolvedBits_length_le (x : Sweep) : (resolvedBits x).length ≤ x.nsym.toNat := by
  rw [resolvedBits, List.length_map, resolveSymbols_length, classifiedSymbols, List.length_take]
  exact Nat.min_le_left _ _

/-- RESOLVE writes RSYM below NSYM alone, and no other of the symbol registers. -/
theorem symbolsInRange_resolveSweep {x : Sweep} (h : SymbolsInRange x) : SymbolsInRange (resolveSweep x) := by
  obtain ⟨count, below, above, ovf⟩ := h
  refine ⟨by simpa using count, by simpa using below, fun j hj => ?_, by simpa using ovf⟩
  rw [resolveSweep_nsym] at hj
  obtain ⟨hlen, hsym, -⟩ := above j hj
  have pastEnd : (resolvedBits x).length ≤ j.val := (resolvedBits_length_le x).trans hj
  refine ⟨by simpa using hlen, by simpa using hsym, ?_⟩
  simp [resolveSweep, pastEnd]

/-- A search writes no symbol register (43_polynomial_matcher.md R104). -/
theorem symbolsInRange_recordMatch {x : Sweep} (h : SymbolsInRange x) (m : MatchResult) :
    SymbolsInRange (recordMatch m x) := by
  simpa [SymbolsInRange] using h

/-! ##### The search's result (R33 to R37) -/

theorem matchInRange_reset : MatchInRange Sweep.reset :=
  ⟨Nat.zero_le _, Nat.zero_le _, Nat.zero_le _, .inl ⟨rfl, rfl, rfl⟩⟩

/-- A value with no bit from `n` on has at most `n` bits that are 1. -/
theorem popcount_le {w : Nat} {v : BitVec w} {n : Nat} (h : ∀ i, n ≤ i → v.getLsbD i = false) : popcount v ≤ n := by
  have counted (m : Nat) : (List.range m).countP v.getLsbD ≤ n := by
    induction m with
    | zero => exact Nat.zero_le n
    | succ m ih =>
      by_cases hm : n ≤ m
      · simpa [List.range_succ, h m hm] using ih
      · have := List.countP_le_length (p := v.getLsbD) (l := List.range (m + 1))
        rw [List.length_range] at this
        omega
  exact counted w

/-- poly_check shifts in one bit for each step (43_polynomial_matcher.md R94). -/
theorem polyCheckLoop_high (t : Lfsr) (n : Nat) :
    ∀ (buf : Lfsr) (out : BitVec 64) (m : Nat), (∀ i, m ≤ i → out.getLsbD i = false) →
      ∀ i, m + n ≤ i → (polyCheckLoop t n buf out).getLsbD i = false := by
  induction n with
  | zero => exact fun buf out m h => h
  | succ n ih =>
    intro buf out m h i hi
    rw [polyCheckLoop]
    refine ih _ _ (m + 1) (fun k hk => ?_) i (by omega)
    have shifted : out.getLsbD (k - 1) = false := h (k - 1) (by omega)
    have bit : (BitVec.ofBool (parity (buf &&& t))).getLsbD k = false := BitVec.getLsbD_of_ge _ _ (by omega)
    simp [shifted, bit]

/-- An attempt compares w bits, so that it measures a distance of at most w (43_polynomial_matcher.md R97). -/
theorem attemptDistance_le (t : Lfsr) (c : BitVec 64) (o w : Nat) : attemptDistance t c o w ≤ w := by
  refine popcount_le fun i hi => ?_
  have generated : (polyCheck t (seedAt c o) w).getLsbD i = false :=
    polyCheckLoop_high t w _ _ 0 (fun k _ => BitVec.getLsbD_zero) i (by omega)
  have masked : (mask64 w).getLsbD i = false := by
    rw [mask64, BitVec.getLsbD_ofNat, Nat.testBit_two_pow_sub_one]
    simp [hi]
  simp [actualBits, generated, masked]

/-- The ranges of a search's result (43_polynomial_matcher.md R99). -/
def ResultInRange (m : MatchResult) : Prop :=
  m.offset ≤ Config.offMax ∧ m.dist0 ≤ Config.winInit ∧ m.dist1 ≤ Config.winInit ∧
    9 ≤ m.window ∧ m.window ≤ Config.winInit ∧ 1 ≤ m.thr ∧ m.thr ≤ Config.thrInit ∧ (m.window = 9 ↔ m.poly = none)

/-- A search that is at a window, an offset and a threshold of its ranges ends in them: every attempt lowers the
window by 1, and window 9 is where it ends without a polynomial (43_polynomial_matcher.md R97 to R99). -/
theorem resultInRange_matchFrom (t0 t1 : Lfsr) (c : BitVec 64) (w : Nat) :
    ∀ o h d0 d1 : Nat, 9 ≤ w → w ≤ Config.winInit → o ≤ Config.offMax → 1 ≤ h → h ≤ Config.thrInit →
      d0 ≤ Config.winInit → d1 ≤ Config.winInit → ResultInRange (matchFrom t0 t1 c w o h d0 d1) := by
  induction w with
  | zero => exact fun o h d0 d1 hw => absurd hw (by decide)
  | succ w ih =>
    intro o h d0 d1 hw hmax ho hh hh' hd0 hd1
    have e0 : attemptDistance t0 c o (w + 1) ≤ Config.winInit := (attemptDistance_le t0 c o (w + 1)).trans hmax
    have e1 : attemptDistance t1 c o (w + 1) ≤ Config.winInit := (attemptDistance_le t1 c o (w + 1)).trans hmax
    rw [matchFrom]
    dsimp only
    split
    case isTrue short =>
      simp only [Config.winMin] at short
      exact ⟨ho, hd0, hd1, hw, hmax, hh, hh', by simp; omega⟩
    case isFalse long =>
      simp only [Config.winMin] at long
      split
      case h_1 p hp => exact ⟨ho, e0, e1, hw, hmax, hh, hh', by simp; omega⟩
      case h_2 hp =>
        split
        case isTrue last =>
          refine ih 0 _ _ _ (by omega) (by omega) (Nat.zero_le _) (le_max_left _ _) ?_ e0 e1
          simp only [Config.thrFloor, Config.thrInit] at hh' ⊢
          omega
        case isFalse notLast => exact ih (o + 1) h _ _ (by omega) (by omega) (by omega) hh hh' e0 e1

theorem resultInRange_matchChips (rom : Rom) (c : BitVec 64) : ResultInRange (matchChips rom c) :=
  resultInRange_matchFrom _ _ c _ 0 _ 0 0 (by decide) le_rfl (Nat.zero_le _) (by decide) le_rfl (Nat.zero_le _)
    (Nat.zero_le _)

/-- Recording a search's result leaves the match registers in their ranges, whatever they held. -/
theorem matchInRange_recordMatch {m : MatchResult} (h : ResultInRange m) (x : Sweep) :
    MatchInRange (recordMatch m x) := by
  obtain ⟨ho, hd0, hd1, hw, hw', ht, ht', hp⟩ := h
  simp only [Config.offMax, Config.winInit, Config.thrInit] at ho hd0 hd1 hw' ht'
  have byte : ∀ n : Nat, n ≤ 47 → (BitVec.ofNat 8 n).toNat = n := fun n hn => by
    rw [BitVec.toNat_ofNat, Nat.mod_eq_of_lt (by omega)]
  refine ⟨?_, ?_, ?_, .inr ?_⟩
  · simpa [recordMatch, byte m.offset (by omega)] using ho
  · simpa [recordMatch, byte m.dist0 hd0] using hd0
  · simpa [recordMatch, byte m.dist1 hd1] using hd1
  · simp only [recordMatch, byte m.window hw', byte m.thr (by omega)]
    exact ⟨hw, hw', ht, ht', hp⟩

/-! ##### The location (R38) -/

/-- A count is the steps of the walk, at most REV_MAX_ITER, and those of one landmark (44_reverse_counter.md R110). -/
theorem reverseCount_le {rom : Rom} {p : PolyIx} {seed : Lfsr} {l : Word} (h : reverseCount rom p seed = some l) :
    l.toNat ≤ longestCount rom := by
  obtain ⟨n, k, hn, rfl, -, -⟩ := reverseWalk_some rom p _ _ _ _ h
  have bound : n + 8192 * k.val ≤ longestCount rom := by
    simp only [longestCount, Config.lmSpacing]
    omega
  calc (0 + BitVec.ofNat 32 (n + 8192 * k.val)).toNat = (n + 8192 * k.val) % 2 ^ 32 := by simp
    _ ≤ n + 8192 * k.val := Nat.mod_le _ _
    _ ≤ longestCount rom := bound

/-- The location a count gives: LOC_NONE or the count (44_reverse_counter.md R114). -/
theorem locInRange_locateSeed (rom : Rom) (p : ActiveIx) (x : Sweep) :
    locOf (locateSeed rom p x) = Config.locNone ∨ (locOf (locateSeed rom p x)).toNat ≤ longestCount rom := by
  cases hc : locateSeed rom p x with
  | none => exact .inl rfl
  | some l => exact .inr (reverseCount_le hc)

theorem locInRange_locateSweep (rom : Rom) (x : Sweep) :
    (locateSweep rom x).1 = Config.locNone ∨ (locateSweep rom x).1.toNat ≤ longestCount rom := by
  unfold locateSweep
  split
  · exact .inl rfl
  · exact locInRange_locateSeed rom _ x

/-! ##### Every effect on a sweep keeps its ranges -/

theorem sweepInRange_reset (rom : Rom) : SweepInRange rom Sweep.reset :=
  ⟨symbolsInRange_reset, matchInRange_reset, .inl rfl⟩

theorem matchInRange_resolveSweep {x : Sweep} (h : MatchInRange x) : MatchInRange (resolveSweep x) := by
  simpa [MatchInRange] using h

theorem matchInRange_classifySweep {x : Sweep} (h : MatchInRange x) : MatchInRange (classifySweep x) := by
  simpa [MatchInRange] using h

/-- A decoded sweep is in its ranges, whatever it held before (45_session_orchestrator.md R117). -/
theorem sweepInRange_decodeSweep (rom : Rom) (x : Sweep) : SweepInRange rom (decodeSweep rom x) := by
  have symbols := symbolsInRange_classifySweep x
  rcases decodeSweep_cases rom x with ⟨-, e, -⟩ | ⟨-, e, -⟩
  · rw [e]
    obtain ⟨count, below, above, ovf⟩ := symbols
    refine ⟨⟨count, below, fun j hj => ?_, ovf⟩, matchInRange_reset, .inl rfl⟩
    obtain ⟨hlen, hsym, -⟩ := above j hj
    exact ⟨hlen, hsym, by simp [discardDerived]⟩
  · rw [e]
    have resolved := symbolsInRange_resolveSweep symbols
    have matched :=
      matchInRange_recordMatch (resultInRange_matchChips rom (resolveSweep (classifySweep x)).chips)
        (resolveSweep (classifySweep x))
    refine ⟨?_, ?_, .inl rfl⟩
    · simpa [SymbolsInRange, resolveAndMatch] using resolved
    · simpa [MatchInRange, resolveAndMatch] using matched

/-- What an instruction leaves in the registers of a sweep is in its ranges when what was there is. -/
theorem sweepEffect_inRange {rom : Rom} {r : Rx} {x y : Sweep} {i : Instr} (e : SweepEffect rom r x i y)
    (h : SweepInRange rom x) : SweepInRange rom y := by
  obtain ⟨symbols, search, loc⟩ := h
  cases e with
  | kept => exact ⟨symbols, search, loc⟩
  | started => exact sweepInRange_reset rom
  | reset => exact sweepInRange_reset rom
  | decoded full => exact sweepInRange_decodeSweep rom x
  | located p => exact ⟨symbols, search, locInRange_locateSeed rom p x⟩
  | captured d => exact ⟨symbols, search, loc⟩
  | classified =>
    exact ⟨symbolsInRange_classifySweep x, matchInRange_classifySweep search, by rwa [LocInRange, classifySweep_loc]⟩
  | resolved =>
    exact ⟨symbolsInRange_resolveSweep symbols, matchInRange_resolveSweep search, by rwa [LocInRange, resolveSweep_loc]⟩
  | matched =>
    exact ⟨symbolsInRange_recordMatch symbols _, matchInRange_recordMatch (resultInRange_matchChips rom _) x, loc⟩
  | counted => exact ⟨symbols, search, locInRange_locateSweep rom x⟩

/-- Every instruction keeps the ranges. -/
theorem effect_rangeInv {i : Instr} {s t : State} (e : Effect s i t) (h : RangeInv s) : RangeInv t := by
  obtain ⟨hrom, -⟩ := effect_constants e
  rw [rangeInv_iff, hrom]
  exact fun r => sweepEffect_inRange (effect_sweep e r) (h r)

/-- Settles O58. -/
theorem registerRangesHoldAtReset : Obligations.RegisterRangesHoldAtReset := by
  intro r
  match r with
  | 0 => exact sweepInRange_reset _
  | 1 => exact sweepInRange_reset _

/-- Settles O59, through what a step can do to the registers of one sweep. -/
theorem everyStepKeepsTheRegisterRanges : Obligations.EveryStepKeepsTheRegisterRanges := by
  intro s t hs h
  cases hp : s.pending with
  | nil =>
    cases (step_nil s hp).symm.trans h
    exact hs
  | cons a rest =>
    rw [step_cons s hp] at h
    obtain ⟨i, e⟩ := exec_effect_exists h
    exact effect_rangeInv e hs

/-! #### The reset table (10_state.md R50) -/

theorem sweepAtReset_reset : sweepAtReset Sweep.reset :=
  ⟨fun i => by simp [Sweep.reset], rfl, rfl, rfl, rfl, rfl, rfl, rfl, rfl, rfl, rfl, rfl, rfl, rfl⟩

theorem pairAtReset_reset : pairAtReset SweepResult.reset := ⟨rfl, rfl, rfl⟩

/-- Settles O41. -/
theorem resetStateHoldsTheResetTable : Obligations.ResetStateHoldsTheResetTable :=
  ⟨rfl, sweepAtReset_reset, sweepAtReset_reset, pairAtReset_reset, pairAtReset_reset, rfl, rfl, rfl, rfl, rfl, rfl,
    rfl, rfl, rfl⟩

/-! #### The STATUS word (10_state.md R49) -/

/-- The machine's code of STATE is that of R22. -/
theorem session_code_eq (x : Session) : x.code = stateCode x := by cases x <;> rfl

/-- The machine's code of ERR is that of R42. -/
theorem errCode_code_eq (x : ErrCode) : x.code = errorCode x := by cases x <;> rfl

/-- The machine's code of LEAF is that of R43. -/
theorem leafCode_code_eq (x : LeafCode) : x.code = leafCode x := by cases x <;> rfl

/-- PAIR_VALID is 1 exactly in LOCATION_READY. -/
theorem pairValid_iff (s : State) : pairValid s = true ↔ s.session = .locationReady := beq_iff_eq

/-- A sweep index as one bit. -/
def rxBit (q : Rx) : BitVec 1 := BitVec.ofFin q

theorem ofNat_rx_eq (q : Rx) : BitVec.ofNat 32 q.val = (rxBit q).setWidth 32 := by
  match q with
  | 0 => rfl
  | 1 => rfl

/-- A sweep index's bit is 1 for sweep 1. -/
theorem rxBit_iff (q : Rx) : (rxBit q).getLsbD 0 = true ↔ q = 1 := by
  match q with
  | 0 => decide
  | 1 => decide

section statusWord
variable (s : State)

theorem statusWord_session : (statusWord s).extractLsb' 0 2 = s.session.code := by
  apply BitVec.eq_of_getLsbD_eq
  intro i hi
  interval_cases i <;> simp [statusWord, ofNat_rx_eq]

theorem statusWord_err : (statusWord s).extractLsb' 4 2 = s.err.code := by
  apply BitVec.eq_of_getLsbD_eq
  intro i hi
  interval_cases i <;> simp [statusWord, ofNat_rx_eq]

theorem statusWord_leaf : (statusWord s).extractLsb' 8 2 = s.leaf.code := by
  apply BitVec.eq_of_getLsbD_eq
  intro i hi
  interval_cases i <;> simp [statusWord, ofNat_rx_eq]

/-- Bits 31:14 are past the last field. -/
theorem statusWord_high : (statusWord s).extractLsb' 14 18 = 0 := by
  apply BitVec.eq_of_getLsbD_eq
  intro i hi
  interval_cases i <;> simp [statusWord, ofNat_rx_eq]

theorem statusWord_full0 : (statusWord s).getLsbD 2 = s.sweep0.full := by simp [statusWord, ofNat_rx_eq]
theorem statusWord_full1 : (statusWord s).getLsbD 3 = s.sweep1.full := by simp [statusWord, ofNat_rx_eq]
theorem statusWord_errSweep : (statusWord s).getLsbD 6 = (rxBit s.errSweep).getLsbD 0 := by
  simp [statusWord, ofNat_rx_eq]
theorem statusWord_swapped : (statusWord s).getLsbD 7 = s.swapped := by simp [statusWord, ofNat_rx_eq]
theorem statusWord_illegal : (statusWord s).getLsbD 10 = s.illegal := by simp [statusWord, ofNat_rx_eq]
theorem statusWord_busErr : (statusWord s).getLsbD 11 = s.busErr := by simp [statusWord, ofNat_rx_eq]
theorem statusWord_capRej : (statusWord s).getLsbD 12 = s.capRej := by simp [statusWord, ofNat_rx_eq]
theorem statusWord_pairValid : (statusWord s).getLsbD 13 = pairValid s := by simp [statusWord, ofNat_rx_eq]

end statusWord

/-- Settles O14, field by field; STATUS is at an address that no write reaches. -/
theorem statusWordHoldsItsFields : Obligations.StatusWordHoldsItsFields := by
  intro s
  refine ⟨?_, statusWord_full0 s, statusWord_full1 s, ?_, ?_, statusWord_swapped s, ?_, statusWord_illegal s,
    statusWord_busErr s, statusWord_capRej s, ?_, statusWord_high s, rfl, fun v => rfl⟩
  · rw [statusWord_session, session_code_eq]
  · rw [statusWord_err, errCode_code_eq]
  · rw [statusWord_errSweep, rxBit_iff]
  · rw [statusWord_leaf, leafCode_code_eq]
  · rw [statusWord_pairValid, pairValid_iff]

end Sys2Proof.Machine
end

section
/-! ### The memory family: the register map, the readback words, the two bus transactions and the capture port

First what a field of an assembled word reads back as, then the words of 20_memory.md R52, the addresses, and the
transactions that use them. -/

namespace Sys2Proof.Machine

open Sys2Proof.Spec

/-! #### Fields of a word: `v` placed at bit `o` is read there, and is 0 everywhere else (20_memory.md R52) -/

section fields
variable {w : Nat} (v : BitVec w)

/-- Bit i of a word that holds `v` at bit `o` alone. -/
theorem placed_getLsbD (o i : Nat) :
    (v.setWidth 32 <<< o : Word).getLsbD i = (decide (i < 32) && decide (o ≤ i) && v.getLsbD (i - o)) := by
  rw [BitVec.getLsbD_shiftLeft, BitVec.getLsbD_setWidth]
  by_cases hi : i < 32
  · have hio : i - o < 32 := by omega
    have above : (!decide (i < o)) = decide (o ≤ i) := by simp only [← decide_not, Nat.not_lt]
    simp [hi, hio, above]
  · simp [hi]

theorem extract_placed {o : Nat} (h : o + w ≤ 32) : (v.setWidth 32 <<< o : Word).extractLsb' o w = v := by
  apply BitVec.eq_of_getLsbD_eq
  intro i hi
  have hoi : o + i < 32 := by omega
  rw [BitVec.getLsbD_extractLsb', placed_getLsbD]
  simp [hi, hoi]

/-- No bit of a range disjoint from the field is set. -/
theorem extract_placed_elsewhere {o o' w' : Nat} (h : o' + w' ≤ o ∨ o + w ≤ o') :
    (v.setWidth 32 <<< o : Word).extractLsb' o' w' = 0 := by
  apply BitVec.eq_of_getLsbD_eq
  intro i hi
  rw [BitVec.getLsbD_extractLsb', placed_getLsbD]
  rcases h with below | above
  · have ho : ¬o ≤ o' + i := by omega
    simp [ho]
  · have hv : v.getLsbD (o' + i - o) = false := BitVec.getLsbD_of_ge _ _ (by omega)
    simp [hv]

/-! The field at bit 0 is written without a shift. -/

theorem extract_setWidth (h : w ≤ 32) : (v.setWidth 32 : Word).extractLsb' 0 w = v := by
  simpa using extract_placed v (o := 0) (by omega)

theorem extract_setWidth_above {o' w' : Nat} (h : w ≤ o') : (v.setWidth 32 : Word).extractLsb' o' w' = 0 := by
  simpa using extract_placed_elsewhere v (o := 0) (o' := o') (w' := w') (by omega)

end fields

/-! #### Words packed of equal fields -/

section packFields
variable {pitch w : Nat} {g : Nat → BitVec w}

/-- A range that meets none of the packed fields reads as 0. -/
theorem extract_packFields_unused {o' w' : Nat} (count : Nat)
    (h : ∀ j < count, o' + w' ≤ pitch * j ∨ pitch * j + w ≤ o') :
    (packFields pitch (fun j => (g j).setWidth 32) count).extractLsb' o' w' = 0 := by
  induction count with
  | zero => exact BitVec.eq_of_getLsbD_eq fun i _ => by simp [packFields]
  | succ count ih =>
    rw [packFields, BitVec.extractLsb'_or, ih fun j hj => h j (by omega),
      extract_placed_elsewhere _ (h count (by omega))]
    exact BitVec.or_zero

/-- Fields that are no wider than their pitch do not meet. -/
theorem fields_disjoint {i j : Nat} (hw : w ≤ pitch) (h : i < j) : pitch * i + w ≤ pitch * j :=
  calc pitch * i + w ≤ pitch * (i + 1) := by rw [Nat.mul_succ]; omega
    _ ≤ pitch * j := Nat.mul_le_mul_left _ h

/-- Field number q of a packed word is what was packed there. -/
theorem extract_packFields {count q : Nat} (hw : w ≤ pitch) (hq : q < count) (h : pitch * q + w ≤ 32) :
    (packFields pitch (fun j => (g j).setWidth 32) count).extractLsb' (pitch * q) w = g q := by
  induction count with
  | zero => omega
  | succ count ih =>
    rw [packFields, BitVec.extractLsb'_or]
    rcases Nat.lt_or_eq_of_le (Nat.le_of_lt_succ hq) with lt | rfl
    · rw [ih lt, extract_placed_elsewhere _ (.inl (fields_disjoint hw lt))]
      exact BitVec.or_zero
    · rw [extract_packFields_unused q fun j hj => .inr (fields_disjoint hw hj), extract_placed _ h]
      exact BitVec.zero_or

/-- Bit b of field number q of a packed word. -/
theorem getLsbD_packFields {count q b : Nat} (hw : w ≤ pitch) (hq : q < count) (h : pitch * q + w ≤ 32)
    (hb : b < w) : (packFields pitch (fun j => (g j).setWidth 32) count).getLsbD (pitch * q + b) = (g q).getLsbD b := by
  rw [← extract_packFields (g := g) hw hq h, BitVec.getLsbD_extractLsb']
  simp [hb]

end packFields

/-! #### The words of the arrays (20_memory.md R52) -/

/-- The list form of an array agrees with the array below its length. -/
theorem getD_toList {α : Type} {n : Nat} (v : Vector α n) (d : α) {i : Nat} (h : i < n) :
    v.toList.getD i d = v[i] := by
  simp [List.getD_eq_getElem?_getD, h]

/-- The machine's code of a symbol is that of 10_state.md R27. -/
theorem ternary_code_eq (x : Ternary) : x.code = symbolCode x := by cases x <;> rfl

section arrays
variable (x : Sweep)

theorem symWord_field {k j : Nat} (hk : k < 8) (hj : j < 16) :
    (symWord x k).extractLsb' (2 * j) 2 = symbolCode x.sym[16 * k + j] := by
  rw [symWord, extract_packFields le_rfl hj (by omega), getD_toList _ _ (by omega), ternary_code_eq]

theorem rsymWord_bit {k j : Nat} (hk : k < 4) (hj : j < 32) : (rsymWord x k).getLsbD j = x.rsym[32 * k + j] := by
  have bit := getLsbD_packFields (pitch := 1) (g := fun j => BitVec.ofBool (x.rsym.toList.getD (32 * k + j) false))
    (count := 32) (q := j) (b := 0) le_rfl hj (by omega) (by omega)
  rw [Nat.one_mul, Nat.add_zero, getD_toList _ _ (by omega)] at bit
  rw [rsymWord, bit]
  simp

theorem runWord_field {k j : Nat} (hk : k < 64) (hj : j < 2) :
    (runWord x k).extractLsb' (16 * j) 11 = x.runlen[2 * k + j] := by
  rw [runWord, extract_packFields (by omega) hj (by omega), getD_toList _ _ (by omega)]

/-- Bits 15:11 and 31:27 of a RUNW word are used by neither run. -/
theorem runWord_gap (k j : Nat) : (runWord x k).extractLsb' (16 * j + 11) 5 = 0 :=
  extract_packFields_unused 2 fun i _ => by omega

/-- RAWW holds the raw bits with raw bit 32k on top (20_memory.md R58). -/
theorem rawWord_bit (k : Nat) {i : Nat} (hi : i < 32) :
    (rawWord x k).getLsbD (31 - i) = rawBit x.raw (32 * k + i) := by
  have bit := getLsbD_packFields (pitch := 8) (g := fun j => x.raw.toList.getD (4 * k + (3 - j)) 0)
    (count := 4) (q := 3 - i / 8) (b := 7 - i % 8) le_rfl (by omega) (by omega) (by omega)
  have position : 8 * (3 - i / 8) + (7 - i % 8) = 31 - i := by omega
  have byte : 4 * k + (3 - (3 - i / 8)) = (32 * k + i) / 8 := by omega
  have bitInByte : 7 - i % 8 = 7 - (32 * k + i) % 8 := by omega
  rw [position, byte, bitInByte] at bit
  exact bit

end arrays

/-- Settles O12, from the field laws of packed words. -/
theorem arrayReadbackWordsHoldTheirElements : Obligations.ArrayReadbackWordsHoldTheirElements := by
  intro s r
  exact ⟨fun k j h => symWord_field _ k.isLt h, fun k j h => rsymWord_bit _ k.isLt h,
    fun k => ⟨runWord_field (j := 0) _ k.isLt (by omega), runWord_gap _ k.val 0,
      runWord_field (j := 1) _ k.isLt (by omega), runWord_gap _ k.val 1⟩⟩

/-! #### The raw bit order (20_memory.md R58) -/

theorem byteBits_length (b : Byte) : (byteBits b).length = 8 := by simp [byteBits]

theorem byteBits_getD (b : Byte) {k : Nat} (h : k < 8) : (byteBits b).getD k false = b.getLsbD (7 - k) := by
  simp [byteBits, List.getD_eq_getElem?_getD, h]

/-- Bit i of a stream of bytes is bit 7 - (i mod 8) of byte i div 8. -/
theorem flatMap_byteBits_getD (l : List Byte) :
    ∀ i < 8 * l.length, (l.flatMap byteBits).getD i false = (l.getD (i / 8) 0).getLsbD (7 - i % 8) := by
  induction l with
  | nil => simp
  | cons b l ih =>
    intro i hi
    rw [List.flatMap_cons]
    rcases Nat.lt_or_ge i 8 with first | later
    · rw [List.getD_append _ _ _ _ (by rwa [byteBits_length]), byteBits_getD b first, Nat.div_eq_of_lt first,
        Nat.mod_eq_of_lt first, List.getD_cons_zero]
    · obtain ⟨m, rfl⟩ := Nat.exists_eq_add_of_le' later
      rw [List.length_cons] at hi
      rw [List.getD_append_right _ _ _ _ (by rw [byteBits_length]; omega), byteBits_length, Nat.add_sub_cancel,
        ih m (by omega), Nat.add_div_right m (by omega), Nat.add_mod_right, List.getD_cons_succ]

/-- Settles O13, for the stream by induction over the bytes and for RAWW by its fields. -/
theorem rawBitsKeepTheirOrder : Obligations.RawBitsKeepTheirOrder := by
  intro s r
  refine ⟨rawBitList_length _, fun i => ⟨?_, ?_⟩⟩
  · exact flatMap_byteBits_getD _ i.val (by simp)
  · have bit := rawWord_bit (s.sweep r) (i.val / 32) (i := i.val % 32) (by omega)
    rwa [Nat.div_add_mod] at bit

/-! #### The words of the scalar registers (20_memory.md R52) -/

/-- The machine's code of a polynomial register is that of 10_state.md R33. -/
theorem polyCode_eq (p : Option ActiveIx) : polyCode p = polynomialCode p := by
  match p with
  | none => rfl
  | some 0 => rfl
  | some 1 => rfl

theorem pairInfoWord_fields (x : SweepResult) :
    (pairInfoWord x).extractLsb' 0 8 = polynomialCode x.poly ∧ (pairInfoWord x).extractLsb' 8 8 = x.off ∧
      (pairInfoWord x).extractLsb' 16 16 = 0 := by
  simp [pairInfoWord, ← polyCode_eq, BitVec.extractLsb'_or, extract_setWidth, extract_setWidth_above, extract_placed,
    extract_placed_elsewhere]

theorem swInfoWord_fields (x : Sweep) :
    (swInfoWord x).extractLsb' 0 8 = x.nsym ∧ (swInfoWord x).getLsbD 8 = x.ovf ∧
      (swInfoWord x).getLsbD 9 = x.excl ∧ (swInfoWord x).getLsbD 10 = x.skip0 ∧
      (swInfoWord x).extractLsb' 11 21 = 0 := by
  simp [swInfoWord, BitVec.extractLsb'_or, extract_setWidth, extract_setWidth_above,
    extract_placed_elsewhere]

theorem matchInfoWord_fields (x : Sweep) :
    (matchInfoWord x).extractLsb' 0 8 = polynomialCode x.poly ∧ (matchInfoWord x).extractLsb' 8 8 = x.offset ∧
      (matchInfoWord x).extractLsb' 16 8 = x.window ∧ (matchInfoWord x).extractLsb' 24 8 = x.thr := by
  simp [matchInfoWord, ← polyCode_eq, BitVec.extractLsb'_or, extract_setWidth, extract_setWidth_above, extract_placed,
    extract_placed_elsewhere]

theorem matchDistWord_fields (x : Sweep) :
    (matchDistWord x).extractLsb' 0 8 = x.dist0 ∧ (matchDistWord x).extractLsb' 8 8 = x.dist1 ∧
      (matchDistWord x).extractLsb' 16 16 = 0 := by
  simp [matchDistWord, BitVec.extractLsb'_or, extract_setWidth, extract_setWidth_above, extract_placed,
    extract_placed_elsewhere]

/-- A 17-bit state, tap mask or landmark as a word (20_memory.md R52: TAPSW, LMW). -/
theorem lfsrWord_fields (b : Lfsr) :
    (b.setWidth 32 : Word).extractLsb' 0 17 = b ∧ (b.setWidth 32 : Word).extractLsb' 17 15 = 0 :=
  ⟨extract_setWidth b (by omega), extract_setWidth_above b le_rfl⟩

/-- Settles O11, word by word. -/
theorem scalarReadbackWordsHoldTheirFields : Obligations.ScalarReadbackWordsHoldTheirFields := by
  intro s
  refine ⟨rfl, rfl, rfl, rfl, fun k => ?_, fun r => ?_, fun p => ?_⟩
  · obtain ⟨hpoly, hoff, hrest⟩ := pairInfoWord_fields (s.pair k)
    exact ⟨hpoly, hoff, hrest, rfl⟩
  · obtain ⟨hnsym, hovf, hexcl, hskip, hswRest⟩ := swInfoWord_fields (s.sweep r)
    obtain ⟨hpoly, hoffset, hwindow, hthr⟩ := matchInfoWord_fields (s.sweep r)
    obtain ⟨hdist0, hdist1, hdistRest⟩ := matchDistWord_fields (s.sweep r)
    exact ⟨hnsym, hovf, hexcl, hskip, hswRest, rfl, rfl, hpoly, hoffset, hwindow, hthr, hdist0, hdist1, hdistRest,
      rfl⟩
  · obtain ⟨htap, htapRest⟩ := lfsrWord_fields (s.rom.tap p)
    exact ⟨htap, htapRest, fun k => lfsrWord_fields (s.rom.landmarkAt p k)⟩

/-! #### The addresses (20_memory.md R52) -/

/-- Addresses 0x000 to 0x00F. -/
theorem registerAt_low {a : Addr} {n : Nat} (hn : n < 16) (h : a.toNat = n) : registerAt a = lowRegister n := by
  subst h
  exact if_pos hn

/-- A field of an address is the index it is congruent to. -/
theorem ofNat_eq_index {n m : Nat} [NeZero n] {i : Fin n} (h : m % n = i.val) : Fin.ofNat n m = i := Fin.ext h

/-- The eight addresses of a sweep's group, by the place in the group. -/
theorem registerAt_group {a : Addr} (r : Rx) {n : Nat} (hn : n < 8) (h : a.toNat = 0x010 + n + 8 * r.val) :
    registerAt a = sweepRegister r n := by
  have place : (a.toNat - 0x010) % 8 = n := by omega
  simp (disch := omega) only [registerAt, if_pos, if_neg]
  rw [ofNat_eq_index (i := r) (by omega), place]

/-- The register at the address of a register is that register: the single registers and the groups of a sweep by
their tables, the arrays by the indices in the address. -/
theorem registerAt_of_toNat_eq {a : Addr} {reg : Register} (h : a.toNat = addressOf reg) : registerAt a = reg := by
  cases reg with
  | cmd | status | argLo | argHi | resLo | resHi | unmapped => exact registerAt_low (by decide) h
  | pairInfo k | pairLoc k =>
    match k with
    | 0 => exact registerAt_low (by decide) h
    | 1 => exact registerAt_low (by decide) h
  | swInfo r => exact registerAt_group r (n := 0) (by decide) h
  | chipsLo r => exact registerAt_group r (n := 1) (by decide) h
  | chipsHi r => exact registerAt_group r (n := 2) (by decide) h
  | matchInfo r => exact registerAt_group r (n := 3) (by decide) h
  | matchDist r => exact registerAt_group r (n := 4) (by decide) h
  | loc r => exact registerAt_group r (n := 5) (by decide) h
  | symW r k | rsymW r k | runW r k | lmW r k | rawW r k =>
    simp only [addressOf] at h
    simp (disch := omega) only [registerAt, if_pos, if_neg]
    rw [ofNat_eq_index (i := r) (by omega), ofNat_eq_index (i := k) (by omega)]
  | tapsW p =>
    simp only [addressOf] at h
    simp (disch := omega) only [registerAt, if_pos, if_neg]
    rw [ofNat_eq_index (i := p) (by omega)]

theorem addressOf_lt (reg : Register) : addressOf reg < 512 := by
  cases reg <;> simp only [addressOf] <;> omega

theorem registerAt_addressOf (reg : Register) : registerAt (BitVec.ofNat 9 (addressOf reg)) = reg :=
  registerAt_of_toNat_eq ((BitVec.toNat_ofNat _ _).trans (Nat.mod_eq_of_lt (addressOf_lt reg)))

/-- In the first group the last named place is 0x009. -/
theorem lowRegister_unmapped (n : Nat) : lowRegister n = .unmapped ↔ 0x00A ≤ n := by
  match n with
  | 0 | 1 | 2 | 3 | 4 | 5 | 6 | 7 | 8 | 9 => decide
  | n + 10 => exact ⟨fun _ => by omega, fun _ => rfl⟩

/-- In a sweep's group the last two of the eight places are unmapped. -/
theorem sweepRegister_unmapped (r : Rx) (n : Nat) : sweepRegister r n = .unmapped ↔ 6 ≤ n := by
  match n with
  | 0 | 1 | 2 | 3 | 4 | 5 => simp [sweepRegister]
  | n + 6 => exact ⟨fun _ => by omega, fun _ => rfl⟩

/-- The unmapped addresses, range by range. -/
theorem registerAt_unmapped (a : Addr) : registerAt a = .unmapped ↔ isUnmapped a.toNat := by
  have ha := a.isLt
  simp only [registerAt, isUnmapped]
  split_ifs
  · rw [lowRegister_unmapped]
    omega
  · rw [sweepRegister_unmapped]
    omega
  all_goals simp only [true_iff, false_iff]; omega

/-- Settles O10. -/
theorem addressesNameTheirRegisters : Obligations.AddressesNameTheirRegisters :=
  ⟨fun reg _ => registerAt_addressOf reg, registerAt_unmapped⟩

/-! #### The two bus transactions (20_memory.md R55, R56) -/

theorem exec_busRd (a : Addr) (s : State) :
    exec (.busRd a) s = .next { s with replies := s.replies ++ [memRead s a] } := rfl

theorem memRead_addressOf (s : State) (reg : Register) :
    memRead s (BitVec.ofNat 9 (addressOf reg)) = registerWord s reg := by
  rw [memRead, registerAt_addressOf]

theorem memRead_unmapped (s : State) {a : Addr} (h : isUnmapped a.toNat) : memRead s a = 0 := by
  rw [memRead, (registerAt_unmapped a).2 h]
  rfl

/-- Settles O9: a read answers with the word of the register at its address. -/
theorem busReadsReturnTheMappedWord : Obligations.BusReadsReturnTheMappedWord := by
  intro s
  refine ⟨fun reg => ?_, fun a ha => ?_⟩
  · rw [exec_busRd, memRead_addressOf]
  · rcases ha with rfl | unmapped
    · rfl
    · rw [exec_busRd, memRead_unmapped s unmapped]
      rfl

/-- A write of the low word leaves the high word (20_memory.md R54). -/
theorem withLow_words (x : BitVec 64) (v : Word) :
    (withLow x v).extractLsb' 0 32 = v ∧ (withLow x v).extractLsb' 32 32 = x.extractLsb' 32 32 :=
  ⟨BitVec.extractLsb'_append_eq_right, BitVec.extractLsb'_append_eq_left⟩

/-- A write of the high word leaves the low word (20_memory.md R54). -/
theorem withHigh_words (x : BitVec 64) (v : Word) :
    (withHigh x v).extractLsb' 32 32 = v ∧ (withHigh x v).extractLsb' 0 32 = x.extractLsb' 0 32 :=
  ⟨BitVec.extractLsb'_append_eq_left, BitVec.extractLsb'_append_eq_right⟩

/-- Settles O8, by the four cases of a bus write. -/
theorem busWritesReachArgOrAreRecorded : Obligations.BusWritesReachArgOrAreRecorded := by
  intro a v s
  refine ⟨?_, ?_, fun h0 h2 h3 => ?_⟩
  · rintro rfl
    exact ⟨withLow s.arg v, rfl, withLow_words s.arg v⟩
  · rintro rfl
    exact ⟨withHigh s.arg v, rfl, withHigh_words s.arg v⟩
  · rcases execBusWr_cases a v s with ⟨e, -⟩ | ⟨e, -⟩ | ⟨e, -⟩ | ⟨-, e⟩
    · exact absurd e h0
    · exact absurd e h2
    · exact absurd e h3
    · exact e

/-! #### The capture port (20_memory.md R57) -/

/-- A sweep's registers with a capture delivered. -/
def withCapture (x : Sweep) (d : RawBuffer) : Sweep := { x with raw := d, full := true }

theorem deliver_accepted {s : State} {r : Rx} (h : capAccepted s r) (d : RawBuffer) :
    deliver s r d = s.setSweep r (withCapture (s.sweep r) d) := by
  rcases deliver_cases s r d with ⟨-, -, e⟩ | ⟨hn, -⟩
  · exact e
  · exact absurd ((capAccepted_iff s r).1 h) hn

theorem deliver_refused {s : State} {r : Rx} (h : ¬capAccepted s r) (d : RawBuffer) :
    deliver s r d = { s with capRej := true } := by
  rcases deliver_cases s r d with ⟨ha, hf, -⟩ | ⟨-, e⟩
  · exact absurd ((capAccepted_iff s r).2 ⟨ha, hf⟩) h
  · exact e

/-- The machine's update of one sweep is the statements' own. -/
theorem setSweep_eq_withSweep (s : State) (r : Rx) (x : Sweep) : s.setSweep r x = withSweep s r x := by
  match r with
  | 0 => rfl
  | 1 => rfl

/-- Settles O15. -/
theorem captureIsAcceptedOrRecorded : Obligations.CaptureIsAcceptedOrRecorded := by
  intro r d s
  refine ⟨fun h => ?_, fun h => congrArg _ (deliver_refused h d)⟩
  exact congrArg _ ((deliver_accepted h d).trans (setSweep_eq_withSweep _ _ _))

/-! ##### What a capture leaves (20_memory.md R59) -/

/-- What is the same of a sweep with and without a capture is the same of every sweep after one. -/
theorem sweep_withCapture {α : Type} (f : Sweep → α) (s : State) (r q : Rx) (d : RawBuffer)
    (h : f (withCapture (s.sweep r) d) = f (s.sweep r)) :
    f ((s.setSweep r (withCapture (s.sweep r) d)).sweep q) = f (s.sweep q) := by
  by_cases hq : q = r
  · rw [hq, sweep_setSweep_same, h]
  · rw [sweep_setSweep_other _ _ hq]

theorem pair_setSweep (s : State) (r : Rx) (x : Sweep) (k : Fin 2) : (s.setSweep r x).pair k = s.pair k := by
  simp [State.pair]

/-- An accepted capture changes the RAWW words of its receiver alone, STATUS aside. -/
theorem registerWord_accepted (s : State) (r : Rx) (d : RawBuffer) {reg : Register} (hs : reg ≠ .status)
    (hr : ∀ k, reg ≠ .rawW r k) :
    registerWord (s.setSweep r (withCapture (s.sweep r) d)) reg = registerWord s reg := by
  cases reg with
  | status => exact absurd rfl hs
  | rawW q k =>
    have other : q ≠ r := fun e => hr k (e ▸ rfl)
    simp only [registerWord, sweep_setSweep_other _ _ other]
  | cmd | unmapped => rfl
  | argLo | argHi => simp only [registerWord, setSweep_arg]
  | resLo | resHi => simp only [registerWord, setSweep_res]
  | tapsW p | lmW p k => simp only [registerWord, setSweep_rom]
  | pairInfo k | pairLoc k => simp only [registerWord, pair_setSweep]
  | swInfo q => exact sweep_withCapture swInfoWord s r q d rfl
  | chipsLo q => exact sweep_withCapture (fun x => lowWord x.chips) s r q d rfl
  | chipsHi q => exact sweep_withCapture (fun x => highWord x.chips) s r q d rfl
  | matchInfo q => exact sweep_withCapture matchInfoWord s r q d rfl
  | matchDist q => exact sweep_withCapture matchDistWord s r q d rfl
  | loc q => exact sweep_withCapture Sweep.loc s r q d rfl
  | symW q k => exact sweep_withCapture (symWord · k.val) s r q d rfl
  | rsymW q k => exact sweep_withCapture (rsymWord · k.val) s r q d rfl
  | runW q k => exact sweep_withCapture (runWord · k.val) s r q d rfl

/-- CAPREJ is in no word but STATUS. -/
theorem registerWord_refused (s : State) {reg : Register} (hs : reg ≠ .status) :
    registerWord { s with capRej := true } reg = registerWord s reg := by
  cases reg with
  | status => exact absurd rfl hs
  | _ => rfl

/-- A flag placed at bit n sets no other bit. -/
theorem flag_getLsbD_ne (b : Bool) {n i : Nat} (h : i ≠ n) :
    ((BitVec.ofBool b).setWidth 32 <<< n : Word).getLsbD i = false := by
  rw [placed_getLsbD, BitVec.getLsbD_ofBool]
  by_cases hi : n ≤ i
  · have hin : i - n ≠ 0 := by omega
    simp [hin]
  · simp [hi]

/-- An accepted capture changes FULL of its receiver in STATUS (10_state.md R49). -/
theorem statusWord_accepted (s : State) (r : Rx) (d : RawBuffer) {i : Nat} (h : i ≠ 2 + r.val) :
    (statusWord (s.setSweep r (withCapture (s.sweep r) d))).getLsbD i = (statusWord s).getLsbD i := by
  match r with
  | 0 =>
    simp only [statusWord, BitVec.getLsbD_or, flag_getLsbD_ne _ (n := 2) h]
    rfl
  | 1 =>
    simp only [statusWord, BitVec.getLsbD_or, flag_getLsbD_ne _ (n := 3) h]
    rfl

/-- A refused capture changes CAPREJ in STATUS (10_state.md R49). -/
theorem statusWord_refused (s : State) {i : Nat} (h : i ≠ 12) :
    (statusWord { s with capRej := true }).getLsbD i = (statusWord s).getLsbD i := by
  simp only [statusWord, BitVec.getLsbD_or, flag_getLsbD_ne _ h]
  rfl

/-- Settles O16, for a capture that is accepted and for one that is refused. -/
theorem captureLeavesEveryOtherReadableWord : Obligations.CaptureLeavesEveryOtherReadableWord := by
  intro r d s t h
  cases h
  by_cases accepted : capAccepted s r
  · rw [deliver_accepted accepted]
    exact ⟨fun reg hs hr => registerWord_accepted s r d hs hr, fun i hi _ => statusWord_accepted s r d hi⟩
  · rw [deliver_refused accepted]
    exact ⟨fun reg hs _ => registerWord_refused s hs, fun i _ hi => statusWord_refused s hi⟩

/-! ##### Deliveries to the two receivers (45_session_orchestrator.md R118) -/

/-- A delivery to one receiver does not change what is accepted on the other. -/
theorem capAccepted_deliver_other {s : State} {r q : Rx} (h : q ≠ r) (d : RawBuffer) :
    capAccepted (deliver s r d) q ↔ capAccepted s q := by
  by_cases accepted : capAccepted s r
  · rw [deliver_accepted accepted, capAccepted, setSweep_session, sweep_setSweep_other _ _ h, capAccepted]
  · rw [deliver_refused accepted]
    exact Iff.rfl

/-- Deliveries to the two receivers commute, whichever of them are accepted. -/
theorem deliver_comm (s : State) (d0 d1 : RawBuffer) :
    deliver (deliver s 0 d0) 1 d1 = deliver (deliver s 1 d1) 0 d0 := by
  have h1 := capAccepted_deliver_other (s := s) (r := 0) (q := 1) (by decide) d0
  have h0 := capAccepted_deliver_other (s := s) (r := 1) (q := 0) (by decide) d1
  by_cases a0 : capAccepted s 0 <;> by_cases a1 : capAccepted s 1
  · rw [deliver_accepted (h1.2 a1), deliver_accepted (h0.2 a0), deliver_accepted a0, deliver_accepted a1]
    rfl
  · rw [deliver_refused (mt h1.1 a1), deliver_accepted (h0.2 a0), deliver_accepted a0, deliver_refused a1]
    rfl
  · rw [deliver_accepted (h1.2 a1), deliver_refused (mt h0.1 a0), deliver_refused a0, deliver_accepted a1]
    rfl
  · rw [deliver_refused (mt h1.1 a1), deliver_refused (mt h0.1 a0), deliver_refused a0, deliver_refused a1]

/-- Settles O17. -/
theorem capturesOfTheTwoReceiversCommute : Obligations.CapturesOfTheTwoReceiversCommute := by
  intro d0 d1 s a b c d ha hb hc hd
  cases ha
  cases hb
  cases hc
  cases hd
  exact deliver_comm s d0 d1

end Sys2Proof.Machine
end

section
/-! ### The encoding family: command words, the decoder against the encoder, and executing a word

A word is known by its five fields (`word_ext_fields`), so `encodeCommand_iff` says of every command which words spell
it; captures are known by their receiver and their bytes (`captureOf_injective`). -/

namespace Sys2Proof

open Sys2Proof.Spec Sys2Proof.Machine

/-! #### The fields of a word (30_encoding.md R66) -/

theorem word_ext_fields {v w : Word} :
    v = w ↔ opField v = opField w ∧ rField v = rField w ∧ pField v = pField w ∧ nField v = nField w ∧
      zField v = zField w := by
  constructor
  · rintro rfl
    exact ⟨rfl, rfl, rfl, rfl, rfl⟩
  · rintro ⟨ho, hr, hp, hn, hz⟩
    rw [word_eq_fields v, word_eq_fields w, ho, hr, hp, hn, hz]

section commandWord
variable (op : BitVec 8) (r : BitVec 1) (p : BitVec 2) (n : BitVec 6)

@[simp] theorem opField_commandWord : opField (commandWord op r p n) = op := by
  simp [opField, commandWord, BitVec.extractLsb'_or, extract_setWidth, extract_placed_elsewhere]

@[simp] theorem rField_commandWord : rField (commandWord op r p n) = r := by
  simp [rField, commandWord, BitVec.extractLsb'_or, extract_setWidth_above, extract_placed, extract_placed_elsewhere]

@[simp] theorem pField_commandWord : pField (commandWord op r p n) = p := by
  simp [pField, commandWord, BitVec.extractLsb'_or, extract_setWidth_above, extract_placed, extract_placed_elsewhere]

@[simp] theorem nField_commandWord : nField (commandWord op r p n) = n := by
  simp [nField, commandWord, BitVec.extractLsb'_or, extract_setWidth_above, extract_placed, extract_placed_elsewhere]

@[simp] theorem zField_commandWord : zField (commandWord op r p n) = 0 := by
  simp [zField, commandWord, BitVec.extractLsb'_or, extract_setWidth_above, extract_placed_elsewhere]

end commandWord

/-- A word spells a command with given operands exactly when its fields are the command's. -/
theorem encodeCommand_iff {op : BitVec 8} {r : Rx} {p : PolyIx} {n : Fin 64} {w : Word} :
    encodeCommand op r p n = .bus cmdHeader w ↔
      opField w = op ∧ rField w = .ofFin r ∧ pField w = .ofFin p ∧ nField w = .ofFin n ∧ zField w = 0 := by
  simp only [encodeCommand, Transaction.bus.injEq, true_and]
  rw [eq_comm, word_ext_fields]
  simp

/-! #### The words of a command (30_encoding.md R68, R69)

The four shapes of a command: the fields it does not use are 0, and it reads its operands from the others. -/

section spelling
variable {w : Word} {op : BitVec 8}

theorem encodeCommand_bare (ho : opField w = op)
    (h : rField w = 0 ∧ pField w = 0 ∧ nField w = 0 ∧ zField w = 0) :
    encodeCommand op 0 0 0 = .bus cmdHeader w :=
  encodeCommand_iff.2 ⟨ho, h⟩

theorem encodeCommand_sweep (ho : opField w = op) (h : pField w = 0 ∧ nField w = 0 ∧ zField w = 0) :
    encodeCommand op (sweepOperand w) 0 0 = .bus cmdHeader w :=
  encodeCommand_iff.2 ⟨ho, rfl, h⟩

theorem encodeCommand_poly (ho : opField w = op) (h : rField w = 0 ∧ nField w = 0 ∧ zField w = 0) :
    encodeCommand op 0 (polyOperand w) 0 = .bus cmdHeader w :=
  encodeCommand_iff.2 ⟨ho, h.1, rfl, h.2⟩

theorem encodeCommand_polySteps (ho : opField w = op) (h : rField w = 0 ∧ zField w = 0) :
    encodeCommand op 0 (polyOperand w) (stepsOperand w) = .bus cmdHeader w :=
  encodeCommand_iff.2 ⟨ho, h.1, rfl, rfl, h.2⟩

end spelling

/-- What the decoder answers is a command that the word spells. -/
theorem encode_of_decodeCommand {w : Word} {i : Instr} (h : decodeCommand w = .ok i) :
    encode i = .bus cmdHeader w := by
  rcases decodeCommand_cases h with
    ⟨ho, hf⟩ | ⟨ho, hf⟩ | ⟨ho, hf⟩ | ⟨ho, hf⟩ | ⟨ho, hf⟩ | ⟨ho, hf⟩ | ⟨ho, hf⟩ | ⟨ho, hf⟩ | ⟨ho, hf⟩ | ⟨ho, hf⟩ |
    ⟨ho, hf⟩ | ⟨ho, hf⟩ | ⟨ho, hf⟩ | ⟨ho, hf⟩ | ⟨ho, hf⟩
  · obtain ⟨unused, rfl⟩ := formBare_ok.1 hf; exact encodeCommand_bare ho unused
  · obtain ⟨unused, rfl⟩ := formBare_ok.1 hf; exact encodeCommand_bare ho unused
  · obtain ⟨unused, rfl⟩ := formBare_ok.1 hf; exact encodeCommand_bare ho unused
  · obtain ⟨unused, rfl⟩ := formBare_ok.1 hf; exact encodeCommand_bare ho unused
  · obtain ⟨unused, rfl⟩ := formBare_ok.1 hf; exact encodeCommand_bare ho unused
  · obtain ⟨unused, rfl⟩ := formR_ok.1 hf; exact encodeCommand_sweep ho unused
  · obtain ⟨unused, rfl⟩ := formR_ok.1 hf; exact encodeCommand_sweep ho unused
  · obtain ⟨unused, rfl⟩ := formR_ok.1 hf; exact encodeCommand_sweep ho unused
  · obtain ⟨unused, rfl⟩ := formR_ok.1 hf; exact encodeCommand_sweep ho unused
  · obtain ⟨unused, rfl⟩ := formBare_ok.1 hf; exact encodeCommand_bare ho unused
  · obtain ⟨unused, rfl⟩ := formP_ok.1 hf; exact encodeCommand_poly ho unused
  · obtain ⟨unused, rfl⟩ := formP_ok.1 hf; exact encodeCommand_poly ho unused
  · obtain ⟨unused, rfl⟩ := formPN_ok.1 hf; exact encodeCommand_polySteps ho unused
  · obtain ⟨unused, rfl⟩ := formP_ok.1 hf; exact encodeCommand_poly ho unused
  · obtain ⟨unused, rfl⟩ := formBare_ok.1 hf; exact encodeCommand_bare ho unused

/-- A word that spells a command is decoded to it: its opcode picks the form, and the form's unused fields are 0. -/
theorem decodeCommand_of_encode {w : Word} {i : Instr} (hi : isCommand i = true) (h : encode i = .bus cmdHeader w) :
    decodeCommand w = .ok i := by
  cases i with
  | busRd a => cases hi
  | busWr a v => cases hi
  | cap r d => cases hi
  | _ =>
    obtain ⟨ho, hr, hp, hn, hz⟩ := encodeCommand_iff.1 h
    simp [decodeCommand, formBare_ok, formR_ok, formP_ok, formPN_ok, sweepOperand, polyOperand, stepsOperand, ho, hr,
      hp, hn, hz]

/-- The decoder answers a command exactly when the word is its encoding (30_encoding.md R69). -/
theorem decodeCommand_iff {w : Word} {i : Instr} :
    decodeCommand w = .ok i ↔ isCommand i = true ∧ encode i = .bus cmdHeader w :=
  ⟨fun h => ⟨(decodeCommand_accepts h).2, encode_of_decodeCommand h⟩, fun ⟨hi, h⟩ => decodeCommand_of_encode hi h⟩

/-! #### The table of matches and masks (30_encoding.md R69) -/

/-- A field that the mask keeps whole is the match's. -/
theorem extract_of_masked {w mask m : Word} {o k : Nat} (h : w &&& mask = m)
    (kept : mask.extractLsb' o k = .allOnes k) : w.extractLsb' o k = m.extractLsb' o k := by
  rw [← h, BitVec.extractLsb'_and, kept, BitVec.and_allOnes]

section masked
variable {w mask : Word} {op r p n}

/-! The fields of a word that is, under a mask, a command word. -/

theorem opField_of_masked (h : w &&& mask = commandWord op r p n) (kept : opField mask = .allOnes 8) :
    opField w = op :=
  (extract_of_masked h kept).trans (opField_commandWord op r p n)

theorem rField_of_masked (h : w &&& mask = commandWord op r p n) (kept : rField mask = .allOnes 1) :
    rField w = r :=
  (extract_of_masked h kept).trans (rField_commandWord op r p n)

theorem pField_of_masked (h : w &&& mask = commandWord op r p n) (kept : pField mask = .allOnes 2) :
    pField w = p :=
  (extract_of_masked h kept).trans (pField_commandWord op r p n)

theorem nField_of_masked (h : w &&& mask = commandWord op r p n) (kept : nField mask = .allOnes 6) :
    nField w = n :=
  (extract_of_masked h kept).trans (nField_commandWord op r p n)

theorem zField_of_masked (h : w &&& mask = commandWord op r p n) (kept : zField mask = .allOnes 15) :
    zField w = 0 :=
  (extract_of_masked h kept).trans (zField_commandWord op r p n)

end masked

/-! The four masks of the table: a word with the match of a row under its mask is a command's word. -/

section masks
variable {w : Word} {op : BitVec 8}

theorem encodeCommand_of_maskBare (h : w &&& 0xFFFFFFFF#32 = commandWord op 0 0 0) :
    encodeCommand op 0 0 0 = .bus cmdHeader w :=
  encodeCommand_bare (opField_of_masked h rfl)
    ⟨rField_of_masked h rfl, pField_of_masked h rfl, nField_of_masked h rfl, zField_of_masked h rfl⟩

theorem encodeCommand_of_maskR (h : w &&& 0xFFFFFEFF#32 = commandWord op 0 0 0) :
    encodeCommand op (sweepOperand w) 0 0 = .bus cmdHeader w :=
  encodeCommand_sweep (opField_of_masked h rfl)
    ⟨pField_of_masked h rfl, nField_of_masked h rfl, zField_of_masked h rfl⟩

theorem encodeCommand_of_maskP (h : w &&& 0xFFFFF9FF#32 = commandWord op 0 0 0) :
    encodeCommand op 0 (polyOperand w) 0 = .bus cmdHeader w :=
  encodeCommand_poly (opField_of_masked h rfl)
    ⟨rField_of_masked h rfl, nField_of_masked h rfl, zField_of_masked h rfl⟩

theorem encodeCommand_of_maskPN (h : w &&& 0xFFFE01FF#32 = commandWord op 0 0 0) :
    encodeCommand op 0 (polyOperand w) (stepsOperand w) = .bus cmdHeader w :=
  encodeCommand_polySteps (opField_of_masked h rfl) ⟨rField_of_masked h rfl, zField_of_masked h rfl⟩

end masks

/-- Each row of the table has a command whose words it matches. -/
theorem encode_of_spellsForm {w : Word} {form : Word × Word} (hm : form ∈ commandForms)
    (h : spellsForm w form = true) : ∃ i, isCommand i = true ∧ encode i = .bus cmdHeader w := by
  have h := beq_iff_eq.1 h
  simp only [commandForms, List.mem_cons, List.not_mem_nil, or_false] at hm
  rcases hm with rfl | rfl | rfl | rfl | rfl | rfl | rfl | rfl | rfl | rfl | rfl | rfl | rfl | rfl | rfl
  · exact ⟨.start, rfl, encodeCommand_of_maskBare h⟩
  · exact ⟨.stop, rfl, encodeCommand_of_maskBare h⟩
  · exact ⟨.reset, rfl, encodeCommand_of_maskBare h⟩
  · exact ⟨.tryAdvance, rfl, encodeCommand_of_maskBare h⟩
  · exact ⟨.processLocation, rfl, encodeCommand_of_maskBare h⟩
  · exact ⟨.classify _, rfl, encodeCommand_of_maskR h⟩
  · exact ⟨.resolve _, rfl, encodeCommand_of_maskR h⟩
  · exact ⟨.matchSweep _, rfl, encodeCommand_of_maskR h⟩
  · exact ⟨.locate _, rfl, encodeCommand_of_maskR h⟩
  · exact ⟨.popcount, rfl, encodeCommand_of_maskBare h⟩
  · exact ⟨.lfsrFwd _, rfl, encodeCommand_of_maskP h⟩
  · exact ⟨.lfsrBack _, rfl, encodeCommand_of_maskP h⟩
  · exact ⟨.polyCheck _ _, rfl, encodeCommand_of_maskPN h⟩
  · exact ⟨.reverseCount _, rfl, encodeCommand_of_maskP h⟩
  · exact ⟨.matchArg, rfl, encodeCommand_of_maskBare h⟩

/-- The decoder accepts exactly the words of the table (30_encoding.md R69, R70). -/
theorem exists_decodeCommand_iff (w : Word) : (∃ i, decodeCommand w = .ok i) ↔ isCommandWord w = true := by
  constructor
  · rintro ⟨i, h⟩
    exact (decodeCommand_accepts h).1
  · intro h
    obtain ⟨form, hm, hs⟩ := List.any_eq_true.1 h
    obtain ⟨i, hi⟩ := encode_of_spellsForm hm hs
    exact ⟨i, decodeCommand_iff.2 hi⟩

/-- The opcode of a match tells its row from the others. -/
theorem commandForms_opField_nodup : (commandForms.map fun form => opField form.1).Nodup := by
  simp [commandForms, opField]

theorem opField_of_spellsForm {w : Word} {form : Word × Word} (hm : form ∈ commandForms)
    (h : spellsForm w form = true) : opField w = opField form.1 := by
  have opcodeKept : ∀ form ∈ commandForms, opField form.2 = .allOnes 8 := by simp [commandForms, opField]
  exact extract_of_masked (beq_iff_eq.1 h) (opcodeKept form hm)

/-- No word has the matches of two rows: they have different opcodes. -/
theorem countP_spellsForm_le_one (w : Word) : commandForms.countP (spellsForm w) ≤ 1 :=
  calc commandForms.countP (spellsForm w)
      ≤ commandForms.countP (fun form => opField form.1 == opField w) :=
        List.countP_mono_left fun _ hm h => beq_iff_eq.2 (opField_of_spellsForm hm h).symm
    _ = (commandForms.map fun form => opField form.1).count (opField w) := by
        rw [List.count, List.countP_map, Function.comp_def]
    _ ≤ 1 := List.nodup_iff_count_le_one.1 commandForms_opField_nodup _

/-- Settles O4, from what the decoder answers and from the opcodes of the table. -/
theorem wordsSpellExactlyTheirForms : Obligations.WordsSpellExactlyTheirForms :=
  ⟨exists_decodeCommand_iff, countP_spellsForm_le_one, fun _ _ => decodeCommand_iff⟩

/-! #### Bus transactions (30_encoding.md R65, R70, R72) -/

/-- A write to CMD is the command its word spells, or, if it spells none, a plain write. -/
theorem decodeCmdWrite_cases (v : Word) :
    decodeCommand v = .ok (decodeCmdWrite v) ∨
      (isCommandWord v = false ∧ decodeCmdWrite v = .busWr 0x000#9 v) := by
  unfold decodeCmdWrite
  cases hd : decodeCommand v with
  | ok i => exact .inl rfl
  | error e =>
    refine .inr ⟨Bool.eq_false_iff.2 fun hw => ?_, rfl⟩
    obtain ⟨i, hi⟩ := (exists_decodeCommand_iff v).2 hw
    cases hd.symm.trans hi

/-- A bus header is its W bit and its address. -/
theorem busHeader_fields (h : BitVec 10) : busHeader (headerWrite h) (headerAddr h) = h := by
  apply BitVec.eq_of_getLsbD_eq
  intro i hi
  rw [busHeader, BitVec.getLsbD_append]
  by_cases low : i < 9
  · simp [low, headerAddr]
  · obtain rfl : i = 9 := by omega
    simp [headerWrite]

theorem decode_busHeader_read (a : Addr) (v : Word) : decode (.bus (busHeader false a) v) = .busRd a := by
  simp [decode, decodeBus, headerWrite_busHeader, headerAddr_busHeader]

theorem decode_busHeader_cmd (v : Word) : decode (.bus (busHeader true 0x000#9) v) = decodeCmdWrite v := by
  simp [decode, decodeBus, headerWrite_busHeader, headerAddr_busHeader]

theorem decode_busHeader_write {a : Addr} (ha : a ≠ 0x000#9) (v : Word) :
    decode (.bus (busHeader true a) v) = .busWr a v := by
  simp [decode, decodeBus, headerWrite_busHeader, headerAddr_busHeader, ha]

/-- A well-formed bus write is decoded to itself: to CMD it writes no command's word (log entry 4). -/
theorem decode_encode_busWr {a : Addr} {v : Word} (h : (Instr.busWr a v).wellFormed = true) :
    decode (encode (.busWr a v)) = .busWr a v := by
  by_cases ha : a = 0x000#9
  · subst ha
    rcases decodeCmdWrite_cases v with accepted | ⟨-, plain⟩
    · simp [Instr.wellFormed, (decodeCommand_accepts accepted).1] at h
    · exact (decode_busHeader_cmd v).trans plain
  · exact decode_busHeader_write ha v

/-! #### Captures (30_encoding.md R65; 20_memory.md R58) -/

theorem shiftLeft_bytes (q n : Nat) : q <<< (8 * n) = q * 256 ^ n := by
  rw [Nat.shiftLeft_eq, pow_mul, show (2 : Nat) ^ 8 = 256 from rfl]

/-- What is added below the shift does not reach above it. -/
theorem shiftLeft_add_shiftRight {q n k : Nat} (h : n < 2 ^ k) : (q <<< k + n) >>> k = q := by
  rw [Nat.shiftLeft_eq, Nat.shiftRight_eq_div_pow, Nat.mul_comm, Nat.mul_add_div (Nat.two_pow_pos k),
    Nat.div_eq_of_lt h, Nat.add_zero]

/-- A capture's number continues that of its receiver with its bytes. -/
theorem captureMessage_eq_foldl (r : Rx) (d : RawBuffer) :
    captureMessage r d = d.toList.foldl (fun acc b => 256 * acc + b.toNat) r.val := by
  have bytes := (foldl_bytes d.toList r.val).1
  rw [Vector.length_toList, ← shiftLeft_bytes] at bytes
  exact bytes.symm

theorem captureByte_captureMessage (r : Rx) (d : RawBuffer) (i : Fin 128) :
    captureByte (captureMessage r d) i.val = d[i] := by
  have byte := byte_of_foldl d.toList r.val i.val (by simp)
  apply BitVec.eq_of_toNat_eq
  rw [captureByte, captureMessage_eq_foldl, BitVec.toNat_ofNat, Nat.shiftRight_eq_div_pow, pow_mul]
  simpa using byte

/-- The receiver stands above the bytes. -/
theorem captureMessage_shiftRight (r : Rx) (d : RawBuffer) : captureMessage r d >>> 1024 = r.val :=
  shiftLeft_add_shiftRight (captureNumber_lt d)

theorem captureOf_captureMessage (r : Rx) (d : RawBuffer) : captureOf (captureMessage r d) = .cap r d := by
  have receiver : Fin.ofNat 2 (captureMessage r d >>> 1024) = r := by
    rw [captureMessage_shiftRight]
    exact Fin.ext (Nat.mod_eq_of_lt r.isLt)
  have bytes : (Vector.ofFn fun i : Fin 128 => captureByte (captureMessage r d) i.val) = d := by
    ext i hi : 1
    rw [Vector.getElem_ofFn]
    exact captureByte_captureMessage r d ⟨i, hi⟩
  rw [captureOf, receiver, bytes]

theorem decode_encode_cap (r : Rx) (d : RawBuffer) : decode (encode (.cap r d)) = .cap r d := by
  have number : (BitVec.ofNat 1025 (captureMessage r d)).toNat = captureMessage r d :=
    Nat.mod_eq_of_lt (captureMessage_lt r d)
  rw [encode, decode, number, captureOf_captureMessage]

/-- Bit j of a capture's number, below the receiver, is in byte 127 - j/8. -/
theorem captureByte_getLsbD (m : Nat) {j : Nat} (hj : j < 1024) :
    (captureByte m (127 - j / 8)).getLsbD (j % 8) = m.testBit j := by
  have place : 8 * (127 - (127 - j / 8)) + j % 8 = j := by omega
  have inByte : j % 8 < 8 := by omega
  rw [captureByte, BitVec.getLsbD_ofNat, Nat.testBit_shiftRight, place]
  simp [inByte]

/-- A capture's receiver and bytes tell its number: they are its 1025 bits. -/
theorem captureOf_injective {m m' : BitVec 1025} (h : captureOf m.toNat = captureOf m'.toNat) : m = m' := by
  obtain ⟨receiver, bytes⟩ := Instr.cap.inj h
  apply BitVec.eq_of_getLsbD_eq
  intro j hj
  rw [← BitVec.testBit_toNat, ← BitVec.testBit_toNat]
  rcases Nat.lt_or_ge j 1024 with inBytes | top
  · have byte : captureByte m.toNat (127 - j / 8) = captureByte m'.toNat (127 - j / 8) := by
      simpa using congrArg (fun d : RawBuffer => d[127 - j / 8]) bytes
    rw [← captureByte_getLsbD m.toNat inBytes, ← captureByte_getLsbD m'.toNat inBytes, byte]
  · obtain rfl : j = 1024 := by omega
    have low : (m.toNat >>> 1024) % 2 = (m'.toNat >>> 1024) % 2 := congrArg Fin.val receiver
    have topBit (n : Nat) : n.testBit 1024 = decide ((n >>> 1024) % 2 = 1) := by
      rw [← Nat.testBit_zero, Nat.testBit_shiftRight]
    rw [topBit, topBit, low]

/-! #### Decode and encode agree -/

/-- The encoding of every command is a write of its word to CMD. -/
theorem exists_encode_of_isCommand {i : Instr} (hi : isCommand i = true) : ∃ w, encode i = .bus cmdHeader w := by
  cases i with
  | busRd a => cases hi
  | busWr a v => cases hi
  | cap r d => cases hi
  | _ => exact ⟨_, rfl⟩

theorem decode_encode_command {i : Instr} (hi : isCommand i = true) : decode (encode i) = i := by
  obtain ⟨w, hw⟩ := exists_encode_of_isCommand hi
  have accepted := decodeCommand_of_encode hi hw
  rw [hw]
  calc decode (.bus cmdHeader w) = decodeCmdWrite w := decode_busHeader_cmd w
    _ = i := by rw [decodeCmdWrite, accepted]

/-- What the decoder answers to a write to CMD is well formed: a command, or a write of no command's word. -/
theorem decodeCmdWrite_wellFormed (v : Word) : (decodeCmdWrite v).wellFormed = true := by
  rcases decodeCmdWrite_cases v with accepted | ⟨refused, plain⟩
  · exact wellFormed_of_isCommand (decodeCommand_accepts accepted).2
  · simp [plain, Instr.wellFormed, refused]

theorem encode_decodeCmdWrite (v : Word) : encode (decodeCmdWrite v) = .bus cmdHeader v := by
  rcases decodeCmdWrite_cases v with accepted | ⟨-, plain⟩
  · exact encode_of_decodeCommand accepted
  · rw [plain]
    rfl

theorem decode_wellFormed (t : Transaction) : (decode t).wellFormed = true := by
  cases t with
  | capture m => rfl
  | bus h v =>
    rw [← busHeader_fields h]
    cases headerWrite h with
    | false => rw [decode_busHeader_read]; rfl
    | true =>
      by_cases ha : headerAddr h = 0x000#9
      · rw [ha, decode_busHeader_cmd]
        exact decodeCmdWrite_wellFormed v
      · rw [decode_busHeader_write ha]
        simp [Instr.wellFormed, ha]

theorem encode_decode_write (a : Addr) (v : Word) :
    encode (decode (.bus (busHeader true a) v)) = .bus (busHeader true a) v := by
  by_cases ha : a = 0x000#9
  · subst ha
    rw [decode_busHeader_cmd]
    exact encode_decodeCmdWrite v
  · rw [decode_busHeader_write ha]
    rfl

theorem encode_decode_read (a : Addr) (v : Word) :
    encode (decode (.bus (busHeader false a) v)) = .bus (busHeader false a) 0 := by
  rw [decode_busHeader_read]
  rfl

/-- A capture's number is that of the instruction it is decoded to. -/
theorem encode_decode_capture (m : BitVec 1025) : encode (decode (.capture m)) = .capture m := by
  have again := decode_encode_cap (Fin.ofNat 2 (m.toNat >>> 1024)) (Vector.ofFn fun i => captureByte m.toNat i.val)
  exact congrArg Transaction.capture (captureOf_injective again)

/-- Settles O3, by the kind of transaction. -/
theorem encodeOfDecodeIsTheTransaction : Obligations.EncodeOfDecodeIsTheTransaction := by
  refine ⟨decode_wellFormed, encode_decode_capture, fun h v write => ?_, fun h v read => ?_⟩
  · have header : busHeader true (headerAddr h) = h := write ▸ busHeader_fields h
    rw [← header]
    exact encode_decode_write _ v
  · have header : busHeader false (headerAddr h) = h := read ▸ busHeader_fields h
    rw [← header]
    exact encode_decode_read _ v

/-- Settles O2, by the kind of transaction: a command, a read, a write, a capture. -/
theorem decodeOfEncodeIsTheInstruction : Obligations.DecodeOfEncodeIsTheInstruction := by
  intro i hi
  cases i with
  | busRd a => exact decode_busHeader_read a 0
  | busWr a v => exact decode_encode_busWr hi
  | cap r d => exact decode_encode_cap r d
  | _ => exact decode_encode_command rfl

/-! #### Words written out -/

/-- Settles O1: the model decodes each of the ten patterns. -/
theorem writtenOutWordsDecode : Obligations.WrittenOutWordsDecode := by
  unfold Obligations.WrittenOutWordsDecode
  decide

end Sys2Proof

namespace Sys2Proof.Machine

open Sys2Proof.Spec

/-! #### Executing a command word (30_encoding.md R70) -/

/-- A word that spells no command sets ILLEGAL. -/
theorem executeWord_refused {w : Word} (h : isCommandWord w = false) (s : State) :
    executeWord w s = .next { s with illegal := true } := by
  rcases executeWord_cases w s with ⟨i, hw, -, -⟩ | e
  · cases h.symm.trans hw
  · exact e

/-- A word that spells a command executes it. -/
theorem executeWord_accepted {w : Word} {i : Instr} (h : decodeCommand w = .ok i) (s : State) :
    executeWord w s = exec i s := by
  rw [executeWord, h]
  exact runCommand_eq_exec (decodeCommand_accepts h).2 s

/-- A diagnostic command outside IDLE sets ILLEGAL. -/
theorem exec_diagnostic_busy {i : Instr} {s : State} (hd : isDiagnostic i = true) (h : s.session ≠ .idle) :
    exec i s = .next { s with illegal := true } := by
  cases i with
  | classify r => exact congrArg Host.Outcome.next (diagnostic_busy h _)
  | resolve r => exact congrArg Host.Outcome.next (diagnostic_busy h _)
  | matchSweep r => exact congrArg Host.Outcome.next (diagnostic_busy h _)
  | locate r => exact congrArg Host.Outcome.next (diagnostic_busy h _)
  | _ => cases hd

/-- Settles O7: each of the four is a `diagnostic`. -/
theorem diagnosticsOutsideIdleAreRejected : Obligations.DiagnosticsOutsideIdleAreRejected :=
  fun _ _ => exec_diagnostic_busy

/-- Settles O6: a write to CMD executes its word. -/
theorem commandWordsExecute : Obligations.CommandWordsExecute := by
  intro w s
  refine ⟨fun refused => executeWord_refused refused s, fun i accepted => ⟨fun ⟨hd, busy⟩ => ?_, fun _ => ?_⟩⟩
  · exact (executeWord_accepted accepted s).trans (exec_diagnostic_busy hd busy)
  · exact executeWord_accepted accepted s

end Sys2Proof.Machine
end

section
/-! ### The classifier family: the runs between transitions, and polarity

`closedRuns` measures runs by counting; 41_bit_classifier.md R76 measures them as the gaps between transition
positions.  `closedRuns_rawBitList` says that the two agree; both statements are read off it. -/

namespace Sys2Proof.Machine

open Sys2Proof.Spec

/-! #### The closed runs are the gaps between transitions (41_bit_classifier.md R76) -/

/-- The stream the classifier reads is the raw bits of 20_memory.md R58, in order. -/
theorem rawBitList_eq_map_rawBit (d : RawBuffer) : rawBitList d = (List.range 1024).map (rawBit d) := by
  refine List.ext_getElem (by simp [rawBitList_length]) fun i hi _ => ?_
  have bit : (rawBitList d).getD i false = rawBit d i :=
    flatMap_byteBits_getD _ i (by rw [rawBitList_length] at hi; simpa using hi)
  rw [List.getD_eq_getElem _ _ hi] at bit
  simpa using bit

/-- Measured from the bit after position `i`, in a run that began at `t`, the closed runs are the distances between
the transitions that follow, the first of them from `t`. -/
theorem closedRunsFrom_eq_gaps (f : Nat → Bool) (n : Nat) : ∀ {i t : Nat}, t ≤ i →
    closedRunsFrom (f i) (i + 1 - t) ((List.range' (i + 1) n).map f) =
      List.zipWith (· - ·) ((List.range' (i + 1) n).filter fun k => f k != f (k - 1))
        (t :: (List.range' (i + 1) n).filter fun k => f k != f (k - 1)) := by
  induction n with
  | zero => intros; rfl
  | succ n ih =>
    intro i t ht
    rw [List.range'_succ, List.map_cons, closedRunsFrom]
    by_cases same : f (i + 1) = f i
    · have longer := ih (i := i + 1) (t := t) (by omega)
      rw [Nat.succ_sub (by omega), same] at longer
      simpa [same] using longer
    · have next := ih (i := i + 1) (t := i + 1) le_rfl
      rw [Nat.add_sub_cancel_left] at next
      simp [same, next]

/-- The transitions of a buffer, without the position 0 that has no bit before it. -/
theorem transitions_eq_filter (d : RawBuffer) :
    transitions d = (List.range' 1 1023).filter fun i => rawBit d i != rawBit d (i - 1) := by
  rw [transitions, List.range_eq_range', List.range'_succ, List.filter_cons_of_neg (by simp)]
  refine List.filter_congr fun i hi => ?_
  rw [decide_eq_true (List.mem_range'_1.1 hi).1, Bool.true_and]

/-- The closed runs of a buffer are the distances from each transition to the one before it, with t_0 = 0. -/
theorem closedRuns_rawBitList (d : RawBuffer) :
    closedRuns (rawBitList d) = List.zipWith (· - ·) (transitions d) (0 :: transitions d) := by
  rw [rawBitList_eq_map_rawBit, List.range_eq_range', List.range'_succ, List.map_cons, closedRuns,
    transitions_eq_filter]
  simpa only [Nat.zero_add, Nat.sub_zero] using closedRunsFrom_eq_gaps (rawBit d) 1023 (Nat.le_refl 0)

/-- There are as many closed runs as transitions. -/
theorem closedRuns_length (d : RawBuffer) : (closedRuns (rawBitList d)).length = (transitions d).length := by
  simp [closedRuns_rawBitList]

/-- The length of closed run j is len_j; past the last transition both are 0. -/
theorem closedRuns_getD (d : RawBuffer) (j : Nat) : (closedRuns (rawBitList d)).getD j 0 = runLength d j := by
  rw [closedRuns_rawBitList, runLength]
  rcases Nat.lt_or_ge j (transitions d).length with closed | past
  · have bound : j < (0 :: transitions d).length := Nat.lt_succ_of_lt closed
    rw [List.getD_eq_getElem _ _ (by simpa using closed), List.getD_eq_getElem _ _ closed,
      List.getD_eq_getElem _ _ bound, List.getElem_zipWith]
  · rw [List.getD_eq_default _ _ (by simpa using past), List.getD_eq_default _ _ past, Nat.zero_sub]

/-- A closed run is shorter than the buffer. -/
theorem runLength_lt (d : RawBuffer) (j : Nat) : runLength d j < 1024 := by
  rw [← closedRuns_getD]
  rcases Nat.lt_or_ge j (closedRuns (rawBitList d)).length with closed | past
  · have bounds := closedRuns_bounds (List.getElem_mem closed)
    rw [rawBitList_length] at bounds
    rw [List.getD_eq_getElem _ _ closed]
    exact bounds.2
  · rw [List.getD_eq_default _ _ past]
    exact Nat.zero_lt_succ _

/-! #### The classes and the exclusion (41_bit_classifier.md R77, R80) -/

/-- The machine's classes are those of 41_bit_classifier.md R77. -/
theorem classOf_eq_cls (len : Nat) : classOf len = cls len := by
  rcases Nat.lt_trichotomy len 4 with short | rfl | long
  · rw [classOf, if_neg (by simp only [Config.zeroMin]; omega), if_pos (by simp only [Config.oneMax]; omega), cls,
      if_neg (by omega), if_pos short]
  · rfl
  · rw [classOf, if_pos (by simp only [Config.zeroMin]; omega), cls, if_neg (by omega), if_neg (by omega)]

theorem firstExcluded_iff (runs : List Nat) :
    firstExcluded runs = true ↔ 2 ≤ runs.length ∧ runs.getD 0 0 = 1 ∧ cls (runs.getD 1 0) = .amb := by
  match runs with
  | [] => simp [firstExcluded]
  | [_] => simp [firstExcluded]
  | l0 :: l1 :: rest => simp [firstExcluded, classOf_eq_cls]

/-! #### What a classification records (41_bit_classifier.md R79, R81) -/

theorem recordRuns_ovf (runs : List Nat) (x : Sweep) : (recordRuns runs x).ovf = decide (128 < runs.length) := by
  unfold recordRuns
  split
  · rw [decide_eq_true ‹_›]
  · rw [decide_eq_false ‹_›]

theorem recordRuns_overflowed {runs : List Nat} (h : 128 < runs.length) (x : Sweep) :
    (recordRuns runs x).nsym = 0 ∧ (recordRuns runs x).excl = false := by
  rw [recordRuns, if_pos h]
  exact ⟨rfl, rfl⟩

theorem recordRuns_fits {runs : List Nat} (h : ¬128 < runs.length) (x : Sweep) :
    (recordRuns runs x).nsym.toNat = runs.length ∧ (recordRuns runs x).excl = firstExcluded runs ∧
      ∀ j : Fin 128, (recordRuns runs x).runlen[j] = BitVec.ofNat 11 (runs.getD j.val 0) := by
  rw [recordRuns, if_neg h]
  exact ⟨Nat.mod_eq_of_lt (by omega), rfl, fun j => Vector.getElem_ofFn _⟩

/-- What is recorded of the runs, RSYM apart, does not depend on what the registers held. -/
theorem recordRuns_same (runs : List Nat) (x y : Sweep) :
    (recordRuns runs y).nsym = (recordRuns runs x).nsym ∧ (recordRuns runs y).runlen = (recordRuns runs x).runlen ∧
      (recordRuns runs y).sym = (recordRuns runs x).sym ∧ (recordRuns runs y).ovf = (recordRuns runs x).ovf ∧
      (recordRuns runs y).excl = (recordRuns runs x).excl := by
  unfold recordRuns
  split <;> exact ⟨rfl, rfl, rfl, rfl, rfl⟩

section classifySweep
variable (x : Sweep)

/-- A classification writes six registers of its sweep alone. -/
theorem classifySweep_frame :
    { x with
      nsym := (classifySweep x).nsym
      runlen := (classifySweep x).runlen
      sym := (classifySweep x).sym
      ovf := (classifySweep x).ovf
      excl := (classifySweep x).excl
      rsym := (classifySweep x).rsym } = classifySweep x :=
  (recordRuns_frame x _).symm

theorem classifySweep_ovf : (classifySweep x).ovf = decide (128 < (transitions x.raw).length) := by
  rw [classifySweep, recordRuns_ovf, closedRuns_length]

theorem classifySweep_overflowed (h : 128 < (transitions x.raw).length) :
    (classifySweep x).nsym = 0 ∧ (classifySweep x).excl = false :=
  recordRuns_overflowed (by rwa [closedRuns_length]) x

/-- A classification that fits writes the number of transitions. -/
theorem classifySweep_nsym (h : ¬128 < (transitions x.raw).length) :
    (classifySweep x).nsym.toNat = (transitions x.raw).length :=
  (recordRuns_fits (by rwa [closedRuns_length]) x).1.trans (closedRuns_length x.raw)

theorem classifySweep_excl_iff (h : ¬128 < (transitions x.raw).length) :
    (classifySweep x).excl = true ↔
      2 ≤ (transitions x.raw).length ∧ runLength x.raw 0 = 1 ∧ cls (runLength x.raw 1) = .amb := by
  obtain ⟨-, excl, -⟩ := recordRuns_fits (by rwa [closedRuns_length]) x
  rw [classifySweep, excl, firstExcluded_iff, closedRuns_length, closedRuns_getD, closedRuns_getD]

/-- RUNLEN holds the runs' lengths: each fits its 11 bits. -/
theorem classifySweep_runlen (h : ¬128 < (transitions x.raw).length) (j : Fin 128) :
    ((classifySweep x).runlen[j]).toNat = runLength x.raw j.val := by
  obtain ⟨-, -, runlen⟩ := recordRuns_fits (by rwa [closedRuns_length]) x
  have := runLength_lt x.raw j.val
  rw [classifySweep, runlen, closedRuns_getD, BitVec.toNat_ofNat, Nat.mod_eq_of_lt (by omega)]

end classifySweep

/-! #### CLASSIFY (41_bit_classifier.md R82) -/

/-- CLASSIFY in IDLE writes the six registers of its sweep and LEAF. -/
theorem exec_classify_idle {s : State} (h : s.session = .idle) (r : Rx) :
    exec (.classify r) s =
      .next { withSweep s r { s.sweep r with
        nsym := (classifySweep (s.sweep r)).nsym
        runlen := (classifySweep (s.sweep r)).runlen
        sym := (classifySweep (s.sweep r)).sym
        ovf := (classifySweep (s.sweep r)).ovf
        excl := (classifySweep (s.sweep r)).excl
        rsym := (classifySweep (s.sweep r)).rsym } with
        leaf := if 128 < (transitions (s.sweep r).raw).length then .overflow else .none } := by
  have overflows : (classifySweep (s.sweep r)).ovf = true ↔ 128 < (transitions (s.sweep r).raw).length := by
    rw [classifySweep_ovf, decide_eq_true_eq]
  rw [classifySweep_frame, ← setSweep_eq_withSweep, ← if_congr overflows rfl rfl]
  exact congrArg Host.Outcome.next (diagnostic_idle h _)

/-- Settles O18: the registers are those of `classifySweep`, whose ranges say what an entry below NSYM and one past it
holds. -/
theorem classifyMeasuresTheClosedRuns : Obligations.ClassifyMeasuresTheClosedRuns := by
  intro r s idle
  obtain ⟨-, below, past, -⟩ := symbolsInRange_classifySweep (s.sweep r)
  refine ⟨classifySweep (s.sweep r), exec_classify_idle idle r, fun j => ?_, fun overflow => ?_, fun fits => ?_⟩
  · rw [classifySweep_rsym]
    exact resolvedBelow_getElem _ _ _ j.isLt
  · obtain ⟨nsym, excl⟩ := classifySweep_overflowed _ overflow
    refine ⟨nsym, (classifySweep_ovf _).trans (decide_eq_true overflow), excl, fun j => ?_⟩
    obtain ⟨runlen, sym, -⟩ := past j (by rw [nsym]; exact Nat.zero_le _)
    exact ⟨runlen, sym⟩
  · have fits := Nat.not_lt.2 fits
    have nsym := classifySweep_nsym _ fits
    rw [nsym] at below past
    refine ⟨nsym, (classifySweep_ovf _).trans (decide_eq_false fits), classifySweep_excl_iff _ fits,
      fun j => ⟨fun hj => ?_, fun hj => ?_⟩⟩
    · have runlen := classifySweep_runlen _ fits j
      obtain ⟨-, -, sym⟩ := below j hj
      rw [runlen, classOf_eq_cls] at sym
      exact ⟨runlen, sym⟩
    · obtain ⟨runlen, sym, -⟩ := past j hj
      exact ⟨runlen, sym⟩

/-! #### Polarity (41_bit_classifier.md R78) -/

section complement
variable {d e : RawBuffer}

theorem rawBit_complement (h : ∀ i : Fin 128, e[i] = ~~~(d[i])) {i : Nat} (hi : i < 1024) :
    rawBit e i = !rawBit d i := by
  have byte : e.toList.getD (i / 8) 0 = ~~~(d.toList.getD (i / 8) 0) := by
    have hb : i / 8 < 128 := by omega
    simpa [List.getD_eq_getElem?_getD, hb] using h ⟨i / 8, hb⟩
  have inByte : 7 - i % 8 < 8 := by omega
  rw [rawBit, rawBit, byte, BitVec.getLsbD_not, decide_eq_true inByte, Bool.true_and]

/-- Complementing every raw bit leaves the transitions where they are. -/
theorem transitions_complement (h : ∀ i : Fin 128, e[i] = ~~~(d[i])) : transitions e = transitions d := by
  refine List.filter_congr fun i hi => ?_
  have hi : i < 1024 := List.mem_range.1 hi
  rw [rawBit_complement h hi, rawBit_complement h (Nat.lt_of_le_of_lt (Nat.sub_le i 1) hi), Bool.not_bne_not]

theorem closedRuns_complement (h : ∀ i : Fin 128, e[i] = ~~~(d[i])) :
    closedRuns (rawBitList e) = closedRuns (rawBitList d) := by
  rw [closedRuns_rawBitList, closedRuns_rawBitList, transitions_complement h]

end complement

/-- Settles O19: complementary buffers have the same closed runs, and a classification records these alone. -/
theorem classificationIgnoresPolarity : Obligations.ClassificationIgnoresPolarity := by
  intro x y h
  have runs : classifySweep y = recordRuns (closedRuns (rawBitList x.raw)) y :=
    congrArg (recordRuns · y) (closedRuns_complement h)
  obtain ⟨nsym, runlen, sym, ovf, excl⟩ := recordRuns_same (closedRuns (rawBitList x.raw)) x y
  rw [← runs] at nsym runlen sym ovf excl
  refine ⟨nsym, runlen, sym, ovf, excl, fun rsym => ?_⟩
  rw [classifySweep_rsym, classifySweep_rsym, rsym]
  exact congrArg (fun n : BitVec 8 => resolvedBelow n.toNat x.rsym) nsym

end Sys2Proof.Machine
end

section
/-! ### The resolver family: the two passes, the parity property and the packing

The parity property of 42_chip_resolver.md R90, which the spec only tested, is an invariant of the cleanup pass alone:
when the pass has visited the positions below i, none of them is AMB and the ONEs between two ZEROs among them are even
in number (`Cleaned`).  `cleaned_cleanupAt` is its step; the forward pass is not needed for it. -/

namespace Sys2Proof.Machine

open Sys2Proof.Spec

/-! #### The working copy -/

theorem symbolAt_set_same {c : List Ternary} {i : Nat} (h : i < c.length) (v : Ternary) :
    symbolAt (c.set i v) i = v := by
  simp [symbolAt, h]

theorem symbolAt_set_ne (c : List Ternary) {i j : Nat} (h : i ≠ j) (v : Ternary) :
    symbolAt (c.set i v) j = symbolAt c j := by
  simp [symbolAt, List.getElem?_set_ne h]

theorem zero_of_set_one {c : List Ternary} {p j : Nat} (hp : p < c.length)
    (h : symbolAt (c.set p .one) j = .zero) : j ≠ p ∧ symbolAt c j = .zero := by
  rcases eq_or_ne p j with rfl | apart
  · cases (symbolAt_set_same hp _).symm.trans h
  · exact ⟨apart.symm, (symbolAt_set_ne c apart _).symm.trans h⟩

theorem exists_symbolAt_of_mem {c : List Ternary} {x : Ternary} (h : x ∈ c) : ∃ j < c.length, symbolAt c j = x := by
  obtain ⟨j, hj, e⟩ := List.getElem_of_mem h
  exact ⟨j, hj, (List.getD_eq_getElem _ _ hj).trans e⟩

/-! #### The count of preceding ONEs (42_chip_resolver.md R84) -/

section onesBefore
variable {c : List Ternary} {lo : Nat}

theorem onesBefore_succ_counted {i : Nat} (h : lo ≤ i ∧ symbolAt c i = .one) :
    onesBefore c lo (i + 1) = onesBefore c lo i + 1 := by
  rw [onesBefore, if_pos h]

theorem onesBefore_succ_stopped {i : Nat} (h : ¬(lo ≤ i ∧ symbolAt c i = .one)) : onesBefore c lo (i + 1) = 0 := by
  rw [onesBefore, if_neg h]

variable (c lo)

theorem onesBefore_le (i : Nat) : onesBefore c lo i ≤ i := by
  induction i with
  | zero => exact Nat.le_refl 0
  | succ i ih =>
    by_cases h : lo ≤ i ∧ symbolAt c i = .one
    · rw [onesBefore_succ_counted h]
      omega
    · rw [onesBefore_succ_stopped h]
      exact Nat.zero_le _

/-- The counted run does not reach below `lo`. -/
theorem onesBefore_above_floor (i : Nat) : onesBefore c lo i = 0 ∨ lo ≤ i - onesBefore c lo i := by
  induction i with
  | zero => exact .inl rfl
  | succ i ih =>
    by_cases h : lo ≤ i ∧ symbolAt c i = .one
    · rw [onesBefore_succ_counted h]
      omega
    · exact .inl (onesBefore_succ_stopped h)

variable {c lo}

/-- The counted symbols are ONEs. -/
theorem symbolAt_of_counted {i j : Nat} (above : i - onesBefore c lo i ≤ j) (below : j < i) :
    symbolAt c j = .one := by
  induction i with
  | zero => omega
  | succ i ih =>
    by_cases h : lo ≤ i ∧ symbolAt c i = .one
    · rw [onesBefore_succ_counted h] at above
      rcases Nat.lt_or_eq_of_le (Nat.le_of_lt_succ below) with earlier | rfl
      · exact ih (by omega) earlier
      · exact h.2
    · rw [onesBefore_succ_stopped h] at above
      omega

/-- No run of ONEs above `lo` is longer than the counted one. -/
theorem le_onesBefore {i k : Nat} (fits : k ≤ i) (floor : lo ≤ i - k)
    (ones : ∀ j, i - k ≤ j → j < i → symbolAt c j = .one) : k ≤ onesBefore c lo i := by
  induction i generalizing k with
  | zero => exact fits.trans (Nat.zero_le _)
  | succ i ih =>
    cases k with
    | zero => exact Nat.zero_le _
    | succ k =>
      have counted : lo ≤ i ∧ symbolAt c i = .one := ⟨by omega, ones i (by omega) (Nat.lt_succ_self i)⟩
      rw [onesBefore_succ_counted counted]
      exact Nat.succ_le_succ (ih (by omega) (by omega) fun j above below => ones j (by omega) (by omega))

end onesBefore

/-- Settles O21. -/
theorem onesBeforeIsTheLongestRun : Obligations.OnesBeforeIsTheLongestRun := fun c lo i _ =>
  ⟨onesBefore_above_floor c lo i, onesBefore_le c lo i, fun _ => symbolAt_of_counted, fun _ => le_onesBefore⟩

/-! #### The forward pass at one position (42_chip_resolver.md R85) -/

section forwardAt
variable {lo : Nat} {c : List Ternary} {i : Nat}

theorem forwardAt_of_ne_amb (h : symbolAt c i ≠ .amb) : forwardAt lo c i = c := if_neg h

/-- F1. -/
theorem forwardAt_last (amb : symbolAt c i = .amb) (last : i + 1 = c.length) : forwardAt lo c i = c.set i .zero := by
  rw [forwardAt, if_pos amb, if_pos last]

/-- F2. -/
theorem forwardAt_beside_amb (amb : symbolAt c i = .amb) (inner : i + 1 < c.length)
    (beside : symbolAt c (i + 1) = .amb ∨ (1 ≤ i ∧ symbolAt c (i - 1) = .amb)) : forwardAt lo c i = c := by
  rw [forwardAt, if_pos amb, if_neg (Nat.ne_of_lt inner), if_pos beside]

/-- F3 to F5, at an AMB with no AMB beside it. -/
theorem forwardAt_alone (amb : symbolAt c i = .amb) (inner : i + 1 < c.length)
    (alone : ¬(symbolAt c (i + 1) = .amb ∨ (1 ≤ i ∧ symbolAt c (i - 1) = .amb))) :
    forwardAt lo c i =
      if onesBefore c lo i % 2 = 1 ∧ symbolAt c (i + 1) = .one then c.set i .one
      else if onesBefore c lo i % 2 = 0 ∧ symbolAt c (i + 1) = .zero then c.set i .zero
      else c := by
  rw [forwardAt, if_pos amb, if_neg (Nat.ne_of_lt inner), if_neg alone]

end forwardAt

/-! #### The cleanup pass at one position (42_chip_resolver.md R86) -/

section cleanupAt
variable {lo : Nat} {c : List Ternary} {i : Nat}

/-- C1, where an odd run has a symbol before it. -/
theorem cleanupAt_flip (zero : symbolAt c i = .zero) (h : onesBefore c lo i % 2 = 1 ∧ 1 ≤ i - onesBefore c lo i) :
    cleanupAt lo c i = c.set (i - onesBefore c lo i - 1) .one := by
  rw [cleanupAt, zero]
  exact if_pos h

theorem cleanupAt_keep (zero : symbolAt c i = .zero)
    (h : ¬(onesBefore c lo i % 2 = 1 ∧ 1 ≤ i - onesBefore c lo i)) :
    cleanupAt lo c i = c := by
  rw [cleanupAt, zero]
  exact if_neg h

/-- C2. -/
theorem cleanupAt_of_amb (amb : symbolAt c i = .amb) :
    cleanupAt lo c i = c.set i (if onesBefore c lo i % 2 = 1 then .one else .zero) := by
  rw [cleanupAt, amb]

theorem cleanupAt_of_one (one : symbolAt c i = .one) : cleanupAt lo c i = c := by
  rw [cleanupAt, one]

end cleanupAt

/-- Settles O22: the equation of each case. -/
theorem passesTakeTheirCases : Obligations.PassesTakeTheirCases := by
  refine ⟨fun excl c => ⟨countFloor excl, rfl, ?_⟩, ?_⟩
  · rw [resolveSymbols, scanPass, scanPass_length (forwardAt_length _), scanPass]
  · rintro lo c i _ - rfl
    refine ⟨forwardAt_of_ne_amb, fun amb => ⟨forwardAt_last amb, fun inner =>
      ⟨forwardAt_beside_amb amb inner, fun alone => ?_⟩⟩,
      fun zero => ⟨fun odd before => cleanupAt_flip zero ⟨odd, before⟩, cleanupAt_keep zero⟩,
      cleanupAt_of_amb, cleanupAt_of_one⟩
    have equation := forwardAt_alone (lo := lo) amb inner alone
    exact ⟨fun odd (next : symbolAt c (i + 1) = .one) => by simpa [odd, next] using equation,
      fun even (next : symbolAt c (i + 1) = .zero) => by simpa [even, next] using equation,
      fun odd (next : symbolAt c (i + 1) = .zero) => by simpa [odd, next] using equation,
      fun even (next : symbolAt c (i + 1) = .one) => by simpa [even, next] using equation⟩

/-! #### What the cleanup pass leaves behind it (42_chip_resolver.md R86, R90) -/

/-- A fact about the positions visited so far that every step of a pass carries one position on holds of all of them
after the pass. -/
theorem scanPass_induction {step : List Ternary → Nat → List Ternary} (P : List Ternary → Nat → Prop)
    {c : List Ternary} (start : P c 0) (length : ∀ d i, (step d i).length = d.length)
    (next : ∀ d i, i < d.length → P d i → P (step d i) (i + 1)) : P (scanPass step c) c.length := by
  have visited : ∀ n ≤ c.length,
      ((List.range n).foldl step c).length = c.length ∧ P ((List.range n).foldl step c) n := by
    intro n
    induction n with
    | zero => exact fun _ => ⟨rfl, start⟩
    | succ n ih =>
      intro hn
      obtain ⟨same, holds⟩ := ih (Nat.le_of_succ_le hn)
      rw [List.range_succ, List.foldl_concat]
      exact ⟨(length _ _).trans same, next _ _ (same.symm ▸ hn) holds⟩
  exact (visited c.length le_rfl).2

/-- Symbol a is ZERO and the symbols after it and before b are ONEs. -/
def OnesSinceZero (c : List Ternary) (a b : Nat) : Prop :=
  symbolAt c a = .zero ∧ ∀ j, a < j → j < b → symbolAt c j = .one

theorem OnesSinceZero.congr {c d : List Ternary} {a b : Nat} (hab : a < b)
    (same : ∀ j < b, symbolAt d j = symbolAt c j) (h : OnesSinceZero d a b) : OnesSinceZero c a b := by
  obtain ⟨zero, ones⟩ := h
  exact ⟨(same a hab).symm.trans zero, fun j above below => (same j below).symm.trans (ones j above below)⟩

theorem OnesSinceZero.mono {c : List Ternary} {a b b' : Nat} (hb : b' ≤ b) (h : OnesSinceZero c a b) :
    OnesSinceZero c a b' :=
  ⟨h.1, fun j above below => h.2 j above (below.trans_le hb)⟩

/-- The count at b is the distance to a ZERO before it, wherever that ZERO stands: `lo` is at most 1, the first
position after it. -/
theorem OnesSinceZero.onesBefore_eq {c : List Ternary} {lo a b : Nat} (hlo : lo ≤ 1) (hab : a < b)
    (h : OnesSinceZero c a b) : onesBefore c lo b = b - a - 1 := by
  obtain ⟨zero, ones⟩ := h
  have atLeast : b - a - 1 ≤ onesBefore c lo b :=
    le_onesBefore (by omega) (by omega) fun j above below => ones j (by omega) below
  have atMost : ¬b - onesBefore c lo b ≤ a := fun counted => by
    cases zero.symm.trans (symbolAt_of_counted counted hab)
  omega

/-- What the cleanup pass keeps of the positions below i: none is AMB, and the ONEs between two ZEROs are even in
number. -/
structure Cleaned (c : List Ternary) (i : Nat) : Prop where
  resolved : ∀ j < i, symbolAt c j ≠ .amb
  even : ∀ a b, a < b → b < i → OnesSinceZero c a b → symbolAt c b = .zero → (b - a - 1) % 2 = 0

/-- A position joins the cleaned ones when it is not AMB and, where it is ZERO, the ONEs before it are even in
number. -/
theorem Cleaned.succ {c d : List Ternary} {i : Nat} (h : Cleaned c i) (same : ∀ j < i, symbolAt d j = symbolAt c j)
    (resolved : symbolAt d i ≠ .amb)
    (even : symbolAt d i = .zero → ∀ a < i, OnesSinceZero c a i → (i - a - 1) % 2 = 0) : Cleaned d (i + 1) where
  resolved j hj := by
    rcases Nat.lt_or_eq_of_le (Nat.le_of_lt_succ hj) with below | rfl
    · rw [same j below]
      exact h.resolved j below
    · exact resolved
  even a b hab hb ones zero := by
    rcases Nat.lt_or_eq_of_le (Nat.le_of_lt_succ hb) with below | rfl
    · have earlier : ∀ j < b, symbolAt d j = symbolAt c j := fun j hj => same j (hj.trans below)
      exact h.even a b hab below (ones.congr hab earlier) ((same b below).symm.trans zero)
    · exact even zero a hab (ones.congr hab same)

/-- A ONE written before a run of ONEs ends no stretch of ONEs between two ZEROs, so cleaned positions stay clean. -/
theorem Cleaned.set_one {c : List Ternary} {i p : Nat} (h : Cleaned c i) (hp : p < c.length)
    (run : ∀ j, p < j → j < i → symbolAt c j = .one) : Cleaned (c.set p .one) i where
  resolved j hj := by
    by_cases at_p : p = j
    · rw [← at_p, symbolAt_set_same hp]
      decide
    · rw [symbolAt_set_ne c at_p]
      exact h.resolved j hj
  even a b hab hb ones zero := by
    obtain ⟨b_ne_p, zeroB⟩ := zero_of_set_one hp zero
    have below : b < p := by
      refine Nat.lt_of_le_of_ne (Nat.le_of_not_lt fun past => ?_) b_ne_p
      cases zeroB.symm.trans (run b past hb)
    exact h.even a b hab hb (ones.congr hab fun j hj => symbolAt_set_ne c (by omega) _) zeroB

/-- The symbol before the counted run is ZERO when ONEs stand between it and an earlier ZERO: as a ONE it would be
counted too. -/
theorem Cleaned.zero_before_run {c : List Ternary} {lo i p a : Nat} (h : Cleaned c i) (hlo : lo ≤ 1)
    (counted : onesBefore c lo i + p + 1 = i) (hap : a < p) (ones : OnesSinceZero c a p) : symbolAt c p = .zero := by
  cases e : symbolAt c p with
  | zero => rfl
  | amb => exact absurd e (h.resolved p (by omega))
  | one =>
    have through : OnesSinceZero c a i := by
      refine ⟨ones.1, fun j above below => ?_⟩
      rcases Nat.lt_trichotomy j p with early | rfl | late
      · exact ones.2 j above early
      · exact e
      · exact symbolAt_of_counted (lo := lo) (by omega) below
    have := through.onesBefore_eq hlo (by omega)
    omega

/-- C1 keeps the parity: the flipped ZERO joins an even number of ONEs before it and an odd run after it. -/
theorem cleaned_flip {c : List Ternary} {lo i p : Nat} (h : Cleaned c i) (hlo : lo ≤ 1) (hi : i < c.length)
    (zero : symbolAt c i = .zero) (odd : onesBefore c lo i % 2 = 1) (counted : onesBefore c lo i + p + 1 = i) :
    Cleaned (c.set p .one) (i + 1) := by
  have hp : p < c.length := by omega
  have run : ∀ j, p < j → j < i → symbolAt c j = .one := fun j above below =>
    symbolAt_of_counted (lo := lo) (by omega) below
  have unchanged : symbolAt (c.set p .one) i = .zero := (symbolAt_set_ne c (by omega) _).trans zero
  refine (h.set_one hp run).succ (fun _ _ => rfl) (by rw [unchanged]; decide) fun _ a ha ones => ?_
  obtain ⟨a_ne_p, zeroA⟩ := zero_of_set_one hp ones.1
  have hap : a < p := by
    refine Nat.lt_of_le_of_ne (Nat.le_of_not_lt fun past => ?_) a_ne_p
    cases zeroA.symm.trans (run a past ha)
  have untilFlip : OnesSinceZero c a p :=
    (ones.mono (by omega)).congr hap fun j hj => symbolAt_set_ne c (by omega) _
  have := h.even a p hap (by omega) untilFlip (h.zero_before_run hlo counted hap untilFlip)
  omega

/-- The cleanup step cleans the position it visits. -/
theorem cleaned_cleanupAt {c : List Ternary} {lo i : Nat} (hlo : lo ≤ 1) (hi : i < c.length) (h : Cleaned c i) :
    Cleaned (cleanupAt lo c i) (i + 1) := by
  cases e : symbolAt c i with
  | zero =>
    by_cases flips : onesBefore c lo i % 2 = 1 ∧ 1 ≤ i - onesBefore c lo i
    · rw [cleanupAt_flip e flips]
      exact cleaned_flip h hlo hi e flips.1 (by omega)
    · rw [cleanupAt_keep e flips]
      refine h.succ (fun _ _ => rfl) (by rw [e]; decide) fun _ a ha ones => ?_
      have := ones.onesBefore_eq hlo ha
      omega
  | amb =>
    rw [cleanupAt_of_amb e]
    refine h.succ (fun j hj => symbolAt_set_ne c (by omega) _) ?_ fun zero a ha ones => ?_
    · rw [symbolAt_set_same hi]
      split <;> decide
    · rw [symbolAt_set_same hi] at zero
      rw [← ones.onesBefore_eq hlo ha]
      split at zero
      · cases zero
      · omega
  | one =>
    rw [cleanupAt_of_one e]
    refine h.succ (fun _ _ => rfl) (by rw [e]; decide) fun zero => ?_
    cases e.symm.trans zero

theorem countFloor_le (excl : Bool) : countFloor excl ≤ 1 := by cases excl <;> decide

/-- Every position of the resolved symbols is cleaned. -/
theorem cleaned_resolveSymbols (excl : Bool) (c : List Ternary) : Cleaned (resolveSymbols excl c) c.length := by
  rw [← scanPass_length (forwardAt_length (countFloor excl)) c]
  exact scanPass_induction Cleaned ⟨by simp, by simp⟩ (cleanupAt_length _)
    fun _ _ => cleaned_cleanupAt (countFloor_le excl)

/-- Settles O23. -/
theorem noSymbolStaysAmbiguous : Obligations.NoSymbolStaysAmbiguous := by
  refine fun excl c => ⟨resolveSymbols_length excl c, fun x hx => ?_⟩
  obtain ⟨j, hj, rfl⟩ := exists_symbolAt_of_mem hx
  exact (cleaned_resolveSymbols excl c).resolved j (resolveSymbols_length excl c ▸ hj)

/-! #### RSYM, SKIP0 and CHIPS (42_chip_resolver.md R87, R88) -/

/-- The resolved symbols of a sweep. -/
def resolvedSymbols (x : Sweep) : List Ternary := resolveSymbols x.excl (classifiedSymbols x)

section registers
variable {x : Sweep}

theorem classifiedSymbols_length (h : x.nsym.toNat ≤ 128) : (classifiedSymbols x).length = x.nsym.toNat := by
  rw [classifiedSymbols, List.length_take, Vector.length_toList, Nat.min_eq_left h]

/-- Bit j is 1 exactly where resolved symbol j is ONE; past the last one both say 0. -/
theorem resolvedBits_getD (x : Sweep) (j : Nat) :
    (resolvedBits x).getD j false = (symbolAt (resolvedSymbols x) j == .one) :=
  List.getD_map _ Ternary.zero (· == .one)

theorem resolvedBits_getD_past {j : Nat} (h : x.nsym.toNat ≤ j) : (resolvedBits x).getD j false = false :=
  List.getD_eq_default _ _ ((resolvedBits_length_le x).trans h)

theorem resolveSweep_rsym_getElem (x : Sweep) {j : Nat} (hj : j < 128) :
    (resolveSweep x).rsym[j] = (resolvedBits x).getD j false := by
  rw [resolveSweep, Vector.getElem_ofFn]

theorem resolveSweep_rsym_iff (x : Sweep) (j : Fin 128) :
    (resolveSweep x).rsym[j] = true ↔ j.val < x.nsym.toNat ∧ symbolAt (resolvedSymbols x) j = .one := by
  have bit : (resolveSweep x).rsym[j] = (resolvedBits x).getD j false := resolveSweep_rsym_getElem x j.isLt
  rw [bit]
  rcases Nat.lt_or_ge j.val x.nsym.toNat with below | past
  · rw [resolvedBits_getD, beq_iff_eq, and_iff_right below]
  · rw [resolvedBits_getD_past past]
    exact iff_of_false Bool.false_ne_true fun h => Nat.not_lt.2 past h.1

theorem skipFirst_iff (c : List Ternary) : skipFirst c = true ↔ 1 ≤ c.length ∧ symbolAt c 0 ≠ .zero := by
  cases c with
  | nil => simp [skipFirst]
  | cons first rest => simp [skipFirst, symbolAt]

theorem resolveSweep_skip0_iff (h : x.nsym.toNat ≤ 128) :
    (resolveSweep x).skip0 = true ↔ 1 ≤ x.nsym.toNat ∧ x.sym[0] ≠ .zero := by
  rw [resolveSweep, skipFirst_iff, classifiedSymbols_length h]
  refine and_congr_right fun nonempty => ?_
  rw [symbolAt, classifiedSymbols]
  simp [Nat.lt_of_lt_of_le Nat.zero_lt_one nonempty]

theorem packChips_getLsbD (bits : List Bool) {k : Nat} (hk : k < 64) :
    (packChips bits).getLsbD (63 - k) = bits.getD k false := by
  have position : 63 - (63 - k) = k := by omega
  rw [packChips, BitVec.getLsbD_ofFnLE, dif_pos (by omega), position]

/-- Packing starts at symbol 1 where it skips symbol 0. -/
theorem packedBits_getD (x : Sweep) (k : Nat) :
    (packedBits x).getD k false =
      (resolvedBits x).getD (k + if skipFirst (classifiedSymbols x) then 1 else 0) false := by
  rw [packedBits]
  split
  · simp
  · rfl

theorem resolveSweep_chips_bit (x : Sweep) (k : Fin 64) :
    (resolveSweep x).chips.getLsbD (63 - k.val) =
      (decide (k.val + (if (resolveSweep x).skip0 then 1 else 0) < x.nsym.toNat) &&
        (resolveSweep x).rsym.toList.getD (k.val + if (resolveSweep x).skip0 then 1 else 0) false) := by
  have bit : (resolveSweep x).chips.getLsbD (63 - k.val) =
      (resolvedBits x).getD (k.val + if (resolveSweep x).skip0 then 1 else 0) false :=
    (packChips_getLsbD _ k.isLt).trans (packedBits_getD x k)
  have inArray : k.val + (if (resolveSweep x).skip0 then 1 else 0) < 128 := by split <;> omega
  rw [bit, getD_toList _ _ inArray, resolveSweep_rsym_getElem]
  generalize k.val + (if (resolveSweep x).skip0 then 1 else 0) = j
  rcases Nat.lt_or_ge j x.nsym.toNat with below | past
  · rw [decide_eq_true below, Bool.true_and]
  · rw [resolvedBits_getD_past past, Bool.and_false]

end registers

/-! #### RESOLVE (42_chip_resolver.md R91) -/

/-- RESOLVE in IDLE writes RSYM, CHIPS and SKIP0 of its sweep and LEAF. -/
theorem exec_resolve_idle {s : State} (h : s.session = .idle) (r : Rx) :
    exec (.resolve r) s =
      .next { withSweep s r { s.sweep r with
        rsym := (resolveSweep (s.sweep r)).rsym
        chips := (resolveSweep (s.sweep r)).chips
        skip0 := (resolveSweep (s.sweep r)).skip0 } with leaf := .none } := by
  rw [← setSweep_eq_withSweep]
  exact congrArg Host.Outcome.next (diagnostic_idle h _)

/-- Settles O20. -/
theorem resolvePacksTheResolvedSymbols : Obligations.ResolvePacksTheResolvedSymbols := fun r s idle fits =>
  ⟨resolveSweep (s.sweep r), exec_resolve_idle idle r, resolveSweep_rsym_iff _, resolveSweep_skip0_iff fits,
    resolveSweep_chips_bit _⟩

/-- After RESOLVE in IDLE the sweep's RSYM holds the resolved bits. -/
theorem rsym_of_exec_resolve {s t : State} {r : Rx} (idle : s.session = .idle) (h : exec (.resolve r) s = .next t) :
    (t.sweep r).rsym = (resolveSweep (s.sweep r)).rsym := by
  cases (exec_resolve_idle idle r).symm.trans h
  match r with
  | 0 => rfl
  | 1 => rfl

/-- Below NSYM a 1 in RSYM is a ONE and a 0 is a ZERO, since no symbol stays AMB. -/
theorem symbolAt_of_rsym {x : Sweep} (fits : x.nsym.toNat ≤ 128) {j : Nat} (hj : j < x.nsym.toNat) {v : Bool}
    (h : (resolveSweep x).rsym.toList[j]? = some v) :
    symbolAt (resolvedSymbols x) j = if v then .one else .zero := by
  have bit : (symbolAt (resolvedSymbols x) j == .one) = v := by
    rw [← resolvedBits_getD, ← resolveSweep_rsym_getElem x (hj.trans_le fits),
      ← getD_toList _ false (hj.trans_le fits), List.getD_eq_getElem?_getD, h, Option.getD_some]
  have resolved : symbolAt (resolvedSymbols x) j ≠ .amb :=
    (cleaned_resolveSymbols _ _).resolved j (by rwa [classifiedSymbols_length fits])
  subst bit
  cases e : symbolAt (resolvedSymbols x) j with
  | zero => rfl
  | one => rfl
  | amb => exact absurd e resolved

/-- Settles O24: the parity invariant of the cleanup pass, read off RSYM. -/
theorem onesBetweenZerosAreEven : Obligations.OnesBetweenZerosAreEven := by
  intro r s t idle fits step a b hab hb zeroA zeroB ones
  rw [rsym_of_exec_resolve idle step] at zeroA zeroB ones
  have cleaned : Cleaned (resolvedSymbols (s.sweep r)) (s.sweep r).nsym.toNat :=
    classifiedSymbols_length fits ▸ cleaned_resolveSymbols _ _
  exact cleaned.even a b hab hb
    ⟨symbolAt_of_rsym fits (hab.trans hb) zeroA,
      fun j above below => symbolAt_of_rsym fits (below.trans hb) (ones j above below)⟩
    (symbolAt_of_rsym fits hb zeroB)

end Sys2Proof.Machine
end

section
/-! ### The matcher family: the Hamming weight, the LFSR's generated bits, the search and its commands

Every function of the matcher gets the equation that says what its bits or its next attempt are; the search is then
followed from attempt number to attempt number (`searchFrom`). -/

namespace Sys2Proof.Machine

open Sys2Proof.Spec

/-! #### The Hamming weight (43_polynomial_matcher.md R92) -/

/-- The count over the list of bit numbers is the size of the set of them. -/
theorem popcount_eq_card {w : Nat} (v : BitVec w) :
    popcount v = ((Finset.univ : Finset (Fin w)).filter fun i => v.getLsbD i.val = true).card := by
  have counted : popcount v = Nat.count (fun i => v.getLsbD i = true) w := by simp [popcount, Nat.count]
  rw [counted, Nat.count_eq_card_filter_range, Finset.card_filter, Finset.card_filter]
  exact (Fin.sum_univ_eq_sum_range (fun i => if v.getLsbD i = true then 1 else 0) w).symm

theorem popcount_eq_onesOf (v : BitVec 64) : popcount v = onesOf v := popcount_eq_card v

theorem popcount_le_width {w : Nat} (v : BitVec w) : popcount v ≤ w :=
  popcount_le fun i hi => BitVec.getLsbD_of_ge v i hi

/-- Renumbering the bits from the other end is a bijection of the bit numbers. -/
theorem popcount_reversed {n : Nat} {v w : BitVec (n + 1)} (h : ∀ i, i < n + 1 → w.getLsbD i = v.getLsbD (n - i)) :
    popcount w = popcount v := by
  rw [popcount_eq_card, popcount_eq_card]
  refine Finset.card_equiv Fin.revPerm fun i => ?_
  have mirrored : (Fin.revPerm i).val = n - i.val := by simp [Fin.val_rev]
  rw [Finset.mem_filter_univ, Finset.mem_filter_univ, mirrored, h i.val i.isLt]

theorem popcount_zero {w : Nat} : popcount (0 : BitVec w) = 0 :=
  Nat.le_zero.1 (popcount_le fun _ _ => BitVec.getLsbD_zero)

theorem popcount_allOnes (w : Nat) : popcount (BitVec.allOnes w) = w := by
  have every : ∀ i ∈ List.range w, (BitVec.allOnes w).getLsbD i = true := fun i hi => by simpa using hi
  rw [popcount, List.countP_eq_length.2 every, List.length_range]

theorem onesOf_eq_zero_iff (v : BitVec 64) : onesOf v = 0 ↔ v = 0 := by
  rw [onesOf, Finset.card_filter_eq_zero_iff]
  constructor
  · exact fun noOnes => BitVec.eq_of_getLsbD_eq fun i hi => by simpa using noOnes ⟨i, hi⟩ (Finset.mem_univ _)
  · rintro rfl
    simp

/-- Settles O26. -/
theorem hammingWeightLaws : Obligations.HammingWeightLaws :=
  ⟨fun v => ⟨popcount_eq_onesOf v, popcount_le_width v⟩, popcount_zero, popcount_allOnes 64,
    fun _ _ h => popcount_reversed h⟩

/-! #### Parity and the forward step (43_polynomial_matcher.md R93) -/

/-- An XOR over a list is the parity of the number of its true entries. -/
theorem foldl_xor_map (p : Nat → Bool) (l : List Nat) (acc : Bool) :
    (l.map p).foldl xor acc = xor acc (l.countP p % 2 == 1) := by
  induction l generalizing acc with
  | nil => cases acc <;> rfl
  | cons i l ih =>
    rw [List.map_cons, List.foldl_cons, ih, List.countP_cons]
    rcases Nat.mod_two_eq_zero_or_one (l.countP p) with even | odd
    · cases p i <;> simp [Nat.add_mod, even]
    · cases p i <;> simp [Nat.add_mod, odd]

/-- The parity under a mask is the tapped parity. -/
theorem parity_and_eq_tapped (t b : Lfsr) : parity (b &&& t) = tapped t b := by
  have bits : (b &&& t).getLsbD = fun i => t.getLsbD i && b.getLsbD i :=
    funext fun i => by rw [BitVec.getLsbD_and, Bool.and_comm]
  rw [tapped, foldl_xor_map, Bool.false_xor, parity, popcount, bits]

/-- The bits of a value into which `q` is shifted at the bottom. -/
theorem shiftIn_getLsbD {w : Nat} (x : BitVec w) (q : Bool) {i : Nat} (hi : i < w) :
    ((x <<< 1) ||| (BitVec.ofBool q).setWidth w).getLsbD i = if i = 0 then q else x.getLsbD (i - 1) := by
  rw [BitVec.getLsbD_or, BitVec.getLsbD_shiftLeft, BitVec.getLsbD_setWidth]
  cases i with
  | zero => simp [hi]
  | succ i =>
    simp [hi]

theorem fwd_getLsbD_zero (t b : Lfsr) : (fwd t b).getLsbD 0 = tapped t b := by
  rw [fwd, shiftIn_getLsbD _ _ (by omega), if_pos rfl, parity_and_eq_tapped]

theorem fwd_getLsbD_succ (t b : Lfsr) {i : Nat} (hi : i < 16) : (fwd t b).getLsbD (i + 1) = b.getLsbD i := by
  rw [fwd, shiftIn_getLsbD _ _ (by omega), if_neg (Nat.succ_ne_zero i), Nat.add_sub_cancel]

/-! #### Forward generation (43_polynomial_matcher.md R94) -/

/-- After n steps the n low bits are those generated, the last in bit 0, and above them stands the output so far. -/
theorem polyCheckLoop_getLsbD (t : Lfsr) (n : Nat) (buf : Lfsr) (out : BitVec 64) {i : Nat} (hi : i < 64) :
    (polyCheckLoop t n buf out).getLsbD i =
      if i < n then tapped t ((fwd t)^[n - 1 - i] buf) else out.getLsbD (i - n) := by
  induction n generalizing buf out with
  | zero => rfl
  | succ n ih =>
    rw [polyCheckLoop, ih, shiftIn_getLsbD _ _ (by omega), parity_and_eq_tapped]
    rcases Nat.lt_trichotomy i n with later | rfl | before
    · rw [if_pos later, if_pos (by omega), ← Function.iterate_succ_apply]
      congr 2
      omega
    · simp
    · rw [if_neg (by omega), if_neg (by omega), if_neg (by omega), Nat.sub_add_eq]

theorem polyCheck_getLsbD (t seed : Lfsr) (n : Nat) {i : Nat} (hi : i < 64) :
    (polyCheck t seed n).getLsbD i = (decide (i < n) && tapped t ((fwd t)^[n - 1 - i] seed)) := by
  rw [polyCheck, polyCheckLoop_getLsbD t n seed 0 hi]
  by_cases h : i < n <;> simp [h]

/-- No bit is generated from bit n up. -/
theorem polyCheck_getLsbD_of_ge (t seed : Lfsr) {n i : Nat} (h : n ≤ i) : (polyCheck t seed n).getLsbD i = false :=
  polyCheckLoop_high t n seed 0 0 (fun _ _ => BitVec.getLsbD_zero) i (by omega)

/-- The bit generated at step j is bit n-1-j. -/
theorem polyCheck_getLsbD_step (t seed : Lfsr) {n j : Nat} (hn : n ≤ 64) (hj : j < n) :
    (polyCheck t seed n).getLsbD (n - 1 - j) = tapped t ((fwd t)^[j] seed) := by
  have below : n - 1 - j < n := by omega
  have step : n - 1 - (n - 1 - j) = j := by omega
  rw [polyCheck_getLsbD t seed n (by omega), decide_eq_true below, Bool.true_and, step]

/-! #### The leaf commands POPCOUNT, LFSR_FWD and POLY_CHECK (43_polynomial_matcher.md R101 to R103) -/

theorem exec_popcount (s : State) :
    exec .popcount s = .next { s with res := BitVec.ofNat 64 (popcount s.arg), leaf := .none } := rfl

theorem exec_lfsrFwd (p : PolyIx) (s : State) :
    exec (.lfsrFwd p) s =
      .next { s with res := (fwd (s.rom.tap p) (seedOperand s.arg)).setWidth 64, leaf := .none } := rfl

theorem exec_polyCheck (p : PolyIx) (n : Fin 64) (s : State) :
    exec (.polyCheck p n) s =
      .next { s with res := polyCheck (s.rom.tap p) (seedOperand s.arg) n.val, leaf := .none } := rfl

theorem seedOperand_getLsbD (arg : BitVec 64) {i : Nat} (hi : i < 17) :
    (seedOperand arg).getLsbD i = arg.getLsbD i := by
  rw [seedOperand, BitVec.getLsbD_extractLsb', decide_eq_true hi, Bool.true_and, Nat.zero_add]

/-- Settles O25. -/
theorem popcountCountsTheOneBits : Obligations.PopcountCountsTheOneBits := fun s => by
  rw [exec_popcount, popcount_eq_onesOf]

/-- Settles O27. -/
theorem lfsrFwdShiftsInTheTappedParity : Obligations.LfsrFwdShiftsInTheTappedParity := fun p s =>
  ⟨fwd (s.rom.tap p) (seedOperand s.arg), exec_lfsrFwd p s, fwd_getLsbD_zero _ _,
    fun i hi => (fwd_getLsbD_succ _ _ hi).trans (seedOperand_getLsbD _ (by omega))⟩

/-- Settles O28. -/
theorem polyCheckGeneratesTheParityBits : Obligations.PolyCheckGeneratesTheParityBits := fun p n s =>
  ⟨polyCheck (s.rom.tap p) (seedOperand s.arg) n.val, exec_polyCheck p n s,
    fun _ hj => polyCheck_getLsbD_step _ _ n.isLt.le hj, fun _ hi => polyCheck_getLsbD_of_ge _ _ hi⟩

/-! #### The seed and the compared bits of an attempt (43_polynomial_matcher.md R95) -/

theorem seedAt_getLsbD (c : BitVec 64) (o : Nat) {i : Nat} (hi : i < 17) :
    (seedAt c o).getLsbD i = c.getLsbD (47 - o + i) := by
  rw [seedAt, BitVec.getLsbD_setWidth, decide_eq_true hi, Bool.true_and, BitVec.getLsbD_ushiftRight]

theorem mask64_getLsbD (n i : Nat) : (mask64 n).getLsbD i = (decide (i < 64) && decide (i < n)) := by
  rw [mask64, BitVec.getLsbD_ofNat, Nat.testBit_two_pow_sub_one]

/-- The mask keeps the w low bits; a window of at most 64 bits meets no end of the word. -/
theorem actualBits_getLsbD (c : BitVec 64) (o : Nat) {w : Nat} (hw : w ≤ 64) (i : Nat) :
    (actualBits c o w).getLsbD i = (decide (i < w) && c.getLsbD (47 - o - w + i)) := by
  rw [actualBits, BitVec.getLsbD_and, BitVec.getLsbD_ushiftRight, mask64_getLsbD, Bool.and_comm]
  by_cases h : i < w
  · have inWord : i < 64 := by omega
    simp [h, inWord]
  · simp [h]

/-- Settles O29. -/
theorem seedAndComparedBitsOfAnAttempt : Obligations.SeedAndComparedBitsOfAnAttempt := fun c o _ fits =>
  ⟨fun _ hi => seedAt_getLsbD c o hi, actualBits_getLsbD c o (by omega)⟩

/-! #### One attempt (43_polynomial_matcher.md R97, R98) -/

theorem attemptDistance_eq_distanceAt (t : Lfsr) (c : BitVec 64) (a : Nat) :
    attemptDistance t c (attemptOffset a) (attemptWindow a) = distanceAt t c a :=
  popcount_eq_onesOf _

/-- A decision names the polynomial of the strictly smaller distance, when that is at most the threshold. -/
theorem decideMatch_eq_some_iff {d0 d1 h : Nat} {i : ActiveIx} :
    decideMatch d0 d1 h = some i ↔ min d0 d1 ≤ h ∧ d0 ≠ d1 ∧ (i = 0 ↔ d0 < d1) := by
  have named : (if d0 < d1 then 0 else 1) = i ↔ (i = 0 ↔ d0 < d1) := by
    match i with
    | 0 => simp
    | 1 => simp
  by_cases near : min d0 d1 ≤ h ∧ d0 ≠ d1
  · rw [decideMatch, if_pos near, Option.some_inj, named, ← and_assoc]
    exact (and_iff_right near).symm
  · rw [decideMatch, if_neg near, ← and_assoc]
    exact iff_of_false (Option.some_ne_none i).symm fun ⟨matched, _⟩ => near matched

section matchFrom
variable {t0 t1 : Lfsr} {c : BitVec 64} {w o h d0 d1 : Nat}

/-- An attempt that decides ends the search with its own values. -/
theorem matchFrom_decided {i : ActiveIx} (long : 10 ≤ w)
    (decided : decideMatch (attemptDistance t0 c o w) (attemptDistance t1 c o w) h = some i) :
    matchFrom t0 t1 c w o h d0 d1 = ⟨some i, o, w, h, attemptDistance t0 c o w, attemptDistance t1 c o w⟩ := by
  obtain ⟨w, rfl⟩ := Nat.exists_eq_succ_of_ne_zero (by omega : w ≠ 0)
  rw [matchFrom, if_neg (Nat.not_lt.2 long)]
  dsimp only
  rw [decided]

/-- After an attempt that does not decide the search goes on at the next offset, from the last one at offset 0 with a
lower threshold. -/
theorem matchFrom_undecided (long : 10 ≤ w)
    (undecided : decideMatch (attemptDistance t0 c o w) (attemptDistance t1 c o w) h = none) :
    matchFrom t0 t1 c w o h d0 d1 =
      matchFrom t0 t1 c (w - 1) (if o = 8 then 0 else o + 1) (if o = 8 then max 1 (h - 1) else h)
        (attemptDistance t0 c o w) (attemptDistance t1 c o w) := by
  obtain ⟨w, rfl⟩ := Nat.exists_eq_succ_of_ne_zero (by omega : w ≠ 0)
  rw [matchFrom, if_neg (Nat.not_lt.2 long)]
  dsimp only
  rw [undecided]
  by_cases last : o = 8
  · simp [last]
  · simp [last]

end matchFrom

/-! The schedule (43_polynomial_matcher.md R99, R100). -/

theorem attemptWindow_succ (a : Nat) : attemptWindow (a + 1) = attemptWindow a - 1 := by
  simp only [attemptWindow]
  omega

theorem attemptOffset_succ (a : Nat) :
    attemptOffset (a + 1) = if attemptOffset a = 8 then 0 else attemptOffset a + 1 := by
  unfold attemptOffset
  split
  case isTrue last => omega
  case isFalse notLast => omega

theorem attemptThreshold_succ (a : Nat) :
    attemptThreshold (a + 1) = if attemptOffset a = 8 then max 1 (attemptThreshold a - 1) else attemptThreshold a := by
  unfold attemptThreshold attemptOffset
  split
  case isTrue last => omega
  case isFalse notLast => omega

/-! #### The search, from attempt to attempt (43_polynomial_matcher.md R99) -/

/-- The distance on record when attempt number a begins: that of the attempt before it, and 0 before the first. -/
def distanceBefore (t : Lfsr) (c : BitVec 64) : Nat → Nat
  | 0 => 0
  | a + 1 => distanceAt t c a

/-- The search that stands before attempt number a of its schedule. -/
def searchFrom (rom : Rom) (c : BitVec 64) (a : Nat) : MatchResult :=
  matchFrom (rom.tap 0) (rom.tap 1) c (attemptWindow a) (attemptOffset a) (attemptThreshold a)
    (distanceBefore (rom.tap 0) c a) (distanceBefore (rom.tap 1) c a)

section searchFrom
variable {rom : Rom} {c : BitVec 64} {a : Nat}

/-- What an attempt of the schedule decides is what it matches. -/
theorem decideMatch_attempt_iff {i : ActiveIx} :
    decideMatch (attemptDistance (rom.tap 0) c (attemptOffset a) (attemptWindow a))
      (attemptDistance (rom.tap 1) c (attemptOffset a) (attemptWindow a)) (attemptThreshold a) = some i ↔
      matchesAt rom c a i := by
  rw [attemptDistance_eq_distanceAt, attemptDistance_eq_distanceAt]
  exact decideMatch_eq_some_iff

/-- The 38 attempts of the schedule have windows of 10 bits or more. -/
theorem attemptWindow_ge (ha : a ≤ 37) : 10 ≤ attemptWindow a := by
  simp only [attemptWindow]
  omega

theorem matchChips_eq_searchFrom_zero (rom : Rom) (c : BitVec 64) : matchChips rom c = searchFrom rom c 0 := rfl

theorem searchFrom_match {i : ActiveIx} (ha : a ≤ 37) (h : matchesAt rom c a i) :
    searchFrom rom c a = searchResult rom c (some i) a a (attemptThreshold a) := by
  rw [searchFrom, matchFrom_decided (attemptWindow_ge ha) (decideMatch_attempt_iff.2 h),
    attemptDistance_eq_distanceAt, attemptDistance_eq_distanceAt, searchResult]

theorem searchFrom_next (ha : a ≤ 37) (h : ∀ i, ¬matchesAt rom c a i) :
    searchFrom rom c a = searchFrom rom c (a + 1) := by
  have undecided := Option.eq_none_iff_forall_ne_some.2 fun i decided => h i (decideMatch_attempt_iff.1 decided)
  rw [searchFrom, matchFrom_undecided (attemptWindow_ge ha) undecided, ← attemptWindow_succ, ← attemptOffset_succ,
    ← attemptThreshold_succ, attemptDistance_eq_distanceAt, attemptDistance_eq_distanceAt]
  rfl

/-- Attempt 38 would have a window of 9 bits, and the search ends before it. -/
theorem searchFrom_end (rom : Rom) (c : BitVec 64) : searchFrom rom c 38 = searchResult rom c none 38 37 1 := rfl

/-- A search whose attempts before number a do not match reaches attempt a. -/
theorem matchChips_eq_searchFrom (ha : a ≤ 38) (h : ∀ b, b < a → ∀ j, ¬matchesAt rom c b j) :
    matchChips rom c = searchFrom rom c a := by
  induction a with
  | zero => exact matchChips_eq_searchFrom_zero rom c
  | succ a ih =>
    rw [ih (by omega) fun b hb => h b (by omega)]
    exact searchFrom_next (by omega) (h a (Nat.lt_succ_self a))

end searchFrom

/-- Settles O30: the search reaches the least attempt that matches, if one of the 38 does, and else its end. -/
theorem searchReturnsTheFirstMatchingAttempt : Obligations.SearchReturnsTheFirstMatchingAttempt := by
  classical
  intro rom c
  by_cases found : ∃ a, a ≤ 37 ∧ ∃ i, matchesAt rom c a i
  · obtain ⟨bound, i, matched⟩ := Nat.find_spec found
    have before : ∀ b, b < Nat.find found → ∀ j, ¬matchesAt rom c b j :=
      fun b hb j hj => Nat.find_min found hb ⟨by omega, j, hj⟩
    exact .inl ⟨Nat.find found, i, bound, matched, before,
      (matchChips_eq_searchFrom (by omega) before).trans (searchFrom_match bound matched)⟩
  · have unmatched : ∀ b, b ≤ 37 → ∀ j, ¬matchesAt rom c b j := fun b hb j hj => found ⟨b, hb, j, hj⟩
    exact .inr ⟨unmatched,
      (matchChips_eq_searchFrom le_rfl fun b hb => unmatched b (by omega)).trans (searchFrom_end rom c)⟩

/-! #### A clean sequence (95_test_vectors.md S4) -/

section clean
variable (t seed : Lfsr)

/-- The 17 top chips of a clean sequence are the seed, as no generated bit reaches them. -/
theorem seedAt_clean : seedAt (seed.setWidth 64 <<< 47 ||| polyCheck t seed 47) 0 = seed := by
  refine BitVec.eq_of_getLsbD_eq fun i hi => ?_
  have inWord : 47 + i < 64 := by omega
  rw [seedAt_getLsbD _ _ hi, BitVec.getLsbD_or, polyCheck_getLsbD_of_ge t seed (by omega : 47 ≤ 47 - 0 + i)]
  simp [inWord]

/-- The 47 chips after the seed of a clean sequence are the generated bits. -/
theorem actualBits_clean :
    actualBits (seed.setWidth 64 <<< 47 ||| polyCheck t seed 47) 0 47 = polyCheck t seed 47 := by
  refine BitVec.eq_of_getLsbD_eq fun i hi => ?_
  rw [actualBits_getLsbD _ _ (by omega), BitVec.getLsbD_or]
  rcases Nat.lt_or_ge i 47 with generated | above
  · simp [generated]
  · simp [polyCheck_getLsbD_of_ge t seed above, Nat.not_lt.2 above]

/-- On a clean sequence attempt 0 measures how far a mask's bits are from the generated ones. -/
theorem distanceAt_clean (t' : Lfsr) :
    distanceAt t' (seed.setWidth 64 <<< 47 ||| polyCheck t seed 47) 0 =
      onesOf (polyCheck t' seed 47 ^^^ polyCheck t seed 47) := by
  have seedBits := seedAt_clean t seed
  have compared := actualBits_clean t seed
  rw [distanceAt]
  simp only [attemptOffset, attemptWindow, Nat.zero_mod, Nat.sub_zero, seedBits, compared]

variable {t seed} {t' : Lfsr}

theorem distanceAt_clean_eq_zero_iff :
    distanceAt t' (seed.setWidth 64 <<< 47 ||| polyCheck t seed 47) 0 = 0 ↔
      polyCheck t' seed 47 = polyCheck t seed 47 := by
  rw [distanceAt_clean, onesOf_eq_zero_iff]
  exact BitVec.xor_eq_zero_iff

end clean

/-- Distance 0 for one polynomial and not for the other is a match. -/
theorem matchesAt_of_distance_zero {rom : Rom} {c : BitVec 64} {a : Nat} {i : ActiveIx}
    (h : ∀ j, distanceAt (rom.tap (activePoly j)) c a = 0 ↔ j = i) : matchesAt rom c a i := by
  have zero : distanceAt (rom.tap 0) c a = 0 ↔ 0 = i := h 0
  have one : distanceAt (rom.tap 1) c a = 0 ↔ 1 = i := h 1
  match i with
  | 0 =>
    have own : distanceAt (rom.tap 0) c a = 0 := zero.2 rfl
    have other : 0 < distanceAt (rom.tap 1) c a := Nat.pos_of_ne_zero (mt one.1 (by decide))
    simp [matchesAt, own, other, other.ne]
  | 1 =>
    have own : distanceAt (rom.tap 1) c a = 0 := one.2 rfl
    have other : distanceAt (rom.tap 0) c a ≠ 0 := mt zero.1 (by decide)
    simp [matchesAt, own, other]

/-- Where the two compared polynomials generate different bits, only i generates those of i. -/
theorem polyCheck_eq_iff {rom : Rom} {seed : Lfsr}
    (differ : polyCheck (rom.tap 0) seed 47 ≠ polyCheck (rom.tap 1) seed 47)
    (i j : ActiveIx) :
    polyCheck (rom.tap (activePoly j)) seed 47 = polyCheck (rom.tap (activePoly i)) seed 47 ↔ j = i := by
  match i, j with
  | 0, 0 => exact iff_of_true rfl rfl
  | 0, 1 => exact iff_of_false differ.symm (by decide)
  | 1, 0 => exact iff_of_false differ (by decide)
  | 1, 1 => exact iff_of_true rfl rfl

/-- Settles O33: attempt 0 matches, so that the search ends there. -/
theorem cleanSequenceMatchesAtOffsetZero : Obligations.CleanSequenceMatchesAtOffsetZero := by
  rintro rom i seed c differ rfl
  have own := fun j => distanceAt_clean_eq_zero_iff.trans (polyCheck_eq_iff differ i j)
  rw [matchChips_eq_searchFrom_zero, searchFrom_match (Nat.zero_le 37) (matchesAt_of_distance_zero own)]
  refine ⟨rfl, rfl, rfl, rfl, ?_⟩
  match i with
  | 0 => exact (own 0).2 rfl
  | 1 => exact (own 1).2 rfl

/-! #### The commands MATCH and MATCH_ARG (43_polynomial_matcher.md R104, R105) -/

theorem matchLeaf_eq (m : MatchResult) : matchLeaf m = if m.poly = none then .notFound else .none :=
  if_congr Option.isNone_iff_eq_none rfl rfl

theorem recordMatch_eq_withMatch (m : MatchResult) (x : Sweep) : recordMatch m x = withMatch x m := rfl

/-- Settles O31. -/
theorem matchRecordsTheSearch : Obligations.MatchRecordsTheSearch := by
  intro r s idle
  rw [← matchLeaf_eq, ← recordMatch_eq_withMatch, ← setSweep_eq_withSweep]
  exact congrArg Host.Outcome.next (diagnostic_idle idle _)

theorem exec_matchArg (s : State) :
    exec .matchArg s =
      .next { s with res := matchResultWord (matchChips s.rom s.arg), leaf := matchLeaf (matchChips s.rom s.arg) } :=
  rfl

/-- The fields of a word of six bytes under 16 bits, from the bottom up. -/
theorem extract_bytes (z : BitVec 16) (f e d c b a : Byte) :
    (z ++ f ++ e ++ d ++ c ++ b ++ a).extractLsb' 0 8 = a ∧ (z ++ f ++ e ++ d ++ c ++ b ++ a).extractLsb' 8 8 = b ∧
      (z ++ f ++ e ++ d ++ c ++ b ++ a).extractLsb' 16 8 = c ∧
      (z ++ f ++ e ++ d ++ c ++ b ++ a).extractLsb' 24 8 = d ∧
      (z ++ f ++ e ++ d ++ c ++ b ++ a).extractLsb' 32 8 = e ∧
      (z ++ f ++ e ++ d ++ c ++ b ++ a).extractLsb' 40 8 = f ∧
      (z ++ f ++ e ++ d ++ c ++ b ++ a).extractLsb' 48 16 = z := by
  simp (disch := omega) only [BitVec.extractLsb'_append_eq_of_le, BitVec.extractLsb'_append_eq_of_add_le,
    BitVec.extractLsb'_eq_self, Nat.reduceSub, and_self]

/-- The fields of the packed result (43_polynomial_matcher.md R105). -/
theorem matchResultWord_fields (m : MatchResult) :
    (matchResultWord m).extractLsb' 0 8 = polynomialCode m.poly ∧
      (matchResultWord m).extractLsb' 8 8 = BitVec.ofNat 8 m.offset ∧
      (matchResultWord m).extractLsb' 16 8 = BitVec.ofNat 8 m.window ∧
      (matchResultWord m).extractLsb' 24 8 = BitVec.ofNat 8 m.thr ∧
      (matchResultWord m).extractLsb' 32 8 = BitVec.ofNat 8 m.dist0 ∧
      (matchResultWord m).extractLsb' 40 8 = BitVec.ofNat 8 m.dist1 ∧ (matchResultWord m).extractLsb' 48 16 = 0 := by
  rw [matchResultWord, polyCode_eq, BitVec.setWidth_eq]
  exact extract_bytes _ _ _ _ _ _ _

/-- Settles O32. -/
theorem matchArgPacksTheSearch : Obligations.MatchArgPacksTheSearch := fun s =>
  ⟨matchResultWord (matchChips s.rom s.arg), by rw [exec_matchArg, matchLeaf_eq], matchResultWord_fields _⟩

end Sys2Proof.Machine
end

section
/-! ### The reverse counter family: the backward step, the walk in closed form, and what a count means

The walk is cut at the states that do not end it (`reverseWalk_steps`); under an invertible mask a count is then a
forward distance from REF, and two such distances agree modulo the period. -/

namespace Sys2Proof.Machine

open Sys2Proof.Spec

/-! #### The backward step (44_reverse_counter.md R106) -/

theorem back_getLsbD (t b : Lfsr) {i : Nat} (hi : i < 16) : (back t b).getLsbD i = b.getLsbD (i + 1) := by
  rw [BitVec.getLsbD_eq_getElem (by omega), back_getElem, if_neg (by omega)]

theorem back_getLsbD_top (t b : Lfsr) : (back t b).getLsbD 16 = xor (b.getLsbD 0) (tapped t (b >>> 1)) := by
  rw [BitVec.getLsbD_eq_getElem (by omega), back_getElem, if_pos rfl, parity_and_eq_tapped]

theorem back_zero (t : Lfsr) : back t 0 = 0 := by
  simpa using back_xor t 0 0

theorem exec_lfsrBack (p : PolyIx) (s : State) :
    exec (.lfsrBack p) s =
      .next { s with res := (back (s.rom.tap p) (seedOperand s.arg)).setWidth 64, leaf := .none } := rfl

/-- Settles O34. -/
theorem lfsrBackRestoresTheDroppedBit : Obligations.LfsrBackRestoresTheDroppedBit := fun p s =>
  ⟨back (s.rom.tap p) (seedOperand s.arg), exec_lfsrBack p s,
    fun _ hi => (back_getLsbD _ _ hi).trans (seedOperand_getLsbD _ (by omega)),
    (back_getLsbD_top _ _).trans (by rw [seedOperand_getLsbD _ (by omega)]; rfl)⟩

/-! #### The inverse law (44_reverse_counter.md R107) -/

/-- A mask with bit 16 sees the top bit: of two states that agree below it, the one without it differs in parity by
that bit. -/
theorem tapped_clear_top {t b c : Lfsr} (ht : t.getLsbD 16 = true) (low : ∀ i, i < 16 → c.getLsbD i = b.getLsbD i)
    (top : c.getLsbD 16 = false) : tapped t b = xor (tapped t c) (b.getLsbD 16) := by
  have same : (List.range 16).map (fun i => t.getLsbD i && c.getLsbD i) =
      (List.range 16).map (fun i => t.getLsbD i && b.getLsbD i) :=
    List.map_congr_left fun i hi => by rw [low i (List.mem_range.1 hi)]
  simp only [tapped, List.range_succ (n := 16), List.map_append, List.foldl_append, same, List.map_cons, List.map_nil,
    List.foldl_cons, List.foldl_nil, ht, top, Bool.true_and, Bool.xor_false]

/-- The bit that fwd drops at the top is recovered from the parity it shifted in. -/
theorem back_fwd {t : Lfsr} (ht : t.getLsbD 16 = true) (b : Lfsr) : back t (fwd t b) = b := by
  refine BitVec.eq_of_getLsbD_eq fun i hi => ?_
  rcases Nat.lt_succ_iff_lt_or_eq.1 hi with low | rfl
  · rw [back_getLsbD _ _ low, fwd_getLsbD_succ _ _ low]
  · have shifted : ∀ i, i < 16 → (fwd t b >>> 1).getLsbD i = b.getLsbD i := fun i hi => by
      rw [BitVec.getLsbD_ushiftRight, Nat.add_comm, fwd_getLsbD_succ _ _ hi]
    rw [back_getLsbD_top, fwd_getLsbD_zero, tapped_clear_top ht shifted (by simp), Bool.xor_right_comm, Bool.xor_self,
      Bool.false_xor]

/-- The bit that back restores at the top makes the parity that fwd shifts in the undone bit. -/
theorem fwd_back {t : Lfsr} (ht : t.getLsbD 16 = true) (b : Lfsr) : fwd t (back t b) = b := by
  refine BitVec.eq_of_getLsbD_eq fun i hi => ?_
  cases i with
  | zero =>
    have shifted : ∀ i, i < 16 → (b >>> 1).getLsbD i = (back t b).getLsbD i := fun i hi => by
      rw [BitVec.getLsbD_ushiftRight, Nat.add_comm, back_getLsbD _ _ hi]
    rw [fwd_getLsbD_zero, tapped_clear_top ht shifted (by simp), back_getLsbD_top, Bool.xor_left_comm, Bool.xor_self,
      Bool.xor_false]
  | succ i => rw [fwd_getLsbD_succ _ _ (by omega), back_getLsbD _ _ (by omega)]

/-- Without bit 16 in the mask fwd drops the top bit and leaves no trace of it. -/
theorem fwd_topBit {t : Lfsr} (ht : t.getLsbD 16 = false) : fwd t 0x10000 = 0 := by
  have hidden : (0x10000 : Lfsr) &&& t = 0 := by
    rw [show (0x10000 : Lfsr) = BitVec.twoPow 17 16 from rfl, BitVec.and_comm, BitVec.and_twoPow, ht]
    rfl
  rw [fwd, hidden]
  decide

/-- Settles O35. -/
theorem backwardStepInvertsForwardStep : Obligations.BackwardStepInvertsForwardStep :=
  ⟨fun _ b ht => ⟨back_fwd ht b, fwd_back ht b⟩,
    fun t ht => ⟨0x10000, by rw [fwd_topBit ht, back_zero]; decide⟩, back_zero⟩

/-! #### The walk in closed form (44_reverse_counter.md R109, R110) -/

section walk
variable {rom : Rom} {p : PolyIx}

theorem not_endsWalk_iff {b : Lfsr} : ¬endsWalk rom p b ↔ b ≠ 0x00001#17 ∧ noLandmark rom p b :=
  not_or.trans (and_congr_right' not_exists)

/-- The smallest landmark is the one that is hit. -/
theorem landmarkHit_of_firstLandmark {b : Lfsr} {k : Fin 16} (h : firstLandmark rom p b k) :
    landmarkHit rom p b = some k.val := by
  obtain ⟨eq, before⟩ := h
  cases hit : landmarkHit rom p b with
  | none => exact absurd eq (landmarkHit_none.1 hit k)
  | some j =>
    obtain ⟨hj, eqj, beforej⟩ := landmarkHit_some hit
    rcases Nat.lt_trichotomy j k.val with lt | same | gt
    · exact absurd eqj (before ⟨j, hj⟩ lt)
    · rw [same]
    · exact absurd eq (beforej k gt)

/-- As long as no state ends it, the walk counts backward steps. -/
theorem reverseWalk_steps (fuel : Nat) (b : Lfsr) (c : Word) {n : Nat}
    (h : ∀ j, j < n → ¬endsWalk rom p (backN rom p j b)) :
    reverseWalk rom p (fuel + n) b c = reverseWalk rom p fuel (backN rom p n b) (c + BitVec.ofNat 32 n) := by
  induction n generalizing b c with
  | zero => simp [backN]
  | succ n ih =>
    have goesOn : ¬endsWalk rom p b := h 0 n.succ_pos
    obtain ⟨notRef, noHit⟩ := not_endsWalk_iff.1 goesOn
    have count : c + 1 + BitVec.ofNat 32 n = c + BitVec.ofNat 32 (n + 1) := by
      rw [BitVec.add_assoc, Nat.add_comm n 1, BitVec.ofNat_add]
      rfl
    rw [← Nat.add_assoc, reverseWalk_back rom p _ c notRef (landmarkHit_none.2 noHit),
      ih _ _ fun j hj => h (j + 1) (Nat.succ_lt_succ hj), count]
    rfl

theorem reverseCount_steps {seed : Lfsr} {fuel n : Nat} (bound : rom.revMaxIter = fuel + n)
    (h : ∀ j, j < n → ¬endsWalk rom p (backN rom p j seed)) :
    reverseCount rom p seed = reverseWalk rom p fuel (backN rom p n seed) (BitVec.ofNat 32 n) := by
  rw [reverseCount, bound, reverseWalk_steps fuel seed 0 h, zero_add]

/-- The walk times out when it meets REF in none of the states up to the bound and a landmark in none before it. -/
theorem reverseWalk_eq_none_iff (fuel : Nat) (b : Lfsr) (c : Word) :
    reverseWalk rom p fuel b c = none ↔
      (∀ j, j ≤ fuel → backN rom p j b ≠ 0x00001#17) ∧ ∀ j, j < fuel → noLandmark rom p (backN rom p j b) := by
  induction fuel generalizing b c with
  | zero => simp [reverseWalk, backN]
  | succ fuel ih =>
    by_cases ref : b = 0x00001#17
    · rw [ref, reverseWalk_ref]
      exact iff_of_false (Option.some_ne_none c) fun h => h.1 0 (Nat.zero_le _) rfl
    cases hit : landmarkHit rom p b with
    | some k =>
      obtain ⟨hk, eq, -⟩ := landmarkHit_some hit
      rw [reverseWalk_landmark rom p fuel k c ref hit]
      exact iff_of_false (Option.some_ne_none _) fun h => h.2 0 fuel.succ_pos ⟨k, hk⟩ eq
    | none =>
      have noHit : noLandmark rom p b := landmarkHit_none.1 hit
      rw [reverseWalk_back rom p fuel c ref hit, ih]
      simp only [← Nat.lt_add_one_iff, Nat.forall_lt_succ_left]
      exact (and_congr (and_iff_right ref) (and_iff_right noHit)).symm

end walk

/-- Settles O36: the walk is followed to the first state that ends it. -/
theorem reverseCountWalksToReferenceOrLandmark : Obligations.ReverseCountWalksToReferenceOrLandmark := by
  intro rom p seed
  refine ⟨fun n hn ref before => ?_, fun n k hn landmark notRef noHit => ?_, reverseWalk_eq_none_iff _ _ _⟩
  · obtain ⟨fuel, bound⟩ := Nat.exists_eq_add_of_le' hn
    rw [reverseCount_steps bound fun j hj => not_endsWalk_iff.2 (before j hj), ref, reverseWalk_ref]
  · obtain ⟨fuel, bound⟩ : ∃ fuel, rom.revMaxIter = fuel + 1 + n := ⟨rom.revMaxIter - 1 - n, by omega⟩
    rw [reverseCount_steps bound fun j hj => not_endsWalk_iff.2 ⟨notRef j hj.le, noHit j hj⟩,
      reverseWalk_landmark rom p fuel k _ (notRef n le_rfl) (landmarkHit_of_firstLandmark landmark), BitVec.ofNat_add]
    rfl

/-! #### The bound (44_reverse_counter.md R110) -/

/-- A count is the number of steps to the first state that ends the walk, which comes before every 17-bit state has
been met, and a landmark's own distance; no sum of the two reaches 2^32. -/
theorem reverseCount_some {rom : Rom} {p : PolyIx} {seed : Lfsr} {x : Word} (h : reverseCount rom p seed = some x) :
    ∃ (n : Nat) (k : Fin 16), n ≤ rom.revMaxIter ∧ n ≤ 131071 ∧ x.toNat = n + 8192 * k.val ∧
      (∀ j, j < n → ¬endsWalk rom p (backN rom p j seed)) ∧
        ((backN rom p n seed = 0x00001#17 ∧ k = 0) ∨ backN rom p n seed = rom.landmarkAt p k) := by
  obtain ⟨n, k, hn, rfl, before, ends⟩ := reverseWalk_some rom p _ _ _ _ h
  have last : endsWalk rom p (backN rom p n seed) := ends.imp And.left fun e => ⟨k, e.1⟩
  have short : n < 131072 := first_hit_lt (back (rom.tap p)) (endsWalk rom p) seed last before
  have fits : n + 8192 * k.val < 2 ^ 32 := by omega
  exact ⟨n, k, hn, by omega, by rw [zero_add, BitVec.toNat_ofNat, Nat.mod_eq_of_lt fits], before,
    ends.imp id And.left⟩

/-- Settles O37: the walk from 0 stays at 0, so it meets REF never and a landmark only if one is 0. -/
theorem reverseCountIsBounded : Obligations.ReverseCountIsBounded := by
  refine ⟨fun rom p seed x h => ?_, fun rom p noHit => ?_⟩
  · obtain ⟨n, k, bound, short, value, -, -⟩ := reverseCount_some h
    have upper : x.toNat ≤ 131071 + 8192 * 15 := by omega
    refine ⟨by omega, upper, ?_⟩
    rintro rfl
    exact absurd upper (by decide)
  · have stays : ∀ j, backN rom p j 0 = 0 := Function.iterate_fixed (back_zero _)
    refine (reverseWalk_eq_none_iff _ _ _).2 ⟨fun j _ => ?_, fun j _ => ?_⟩
    · rw [stays]
      decide
    · rwa [stays]

/-! #### The commands REVERSE_COUNT and LOCATE (44_reverse_counter.md R113, R114) -/

theorem exec_reverseCount (p : PolyIx) (s : State) :
    exec (.reverseCount p) s =
      .next { s with
        res := (locOf (reverseCount s.rom p (s.arg.extractLsb' 0 17))).setWidth 64
        leaf := countLeaf (reverseCount s.rom p (s.arg.extractLsb' 0 17)) } := rfl

/-- Settles O38. -/
theorem reverseCountCommandReportsTheCount : Obligations.ReverseCountCommandReportsTheCount := by
  intro p s
  rw [exec_reverseCount]
  refine ⟨fun x counted => ?_, fun timeout => ?_⟩
  · rw [counted]
    rfl
  · rw [timeout]
    rfl

/-- A REVERSE_COUNT that leaves LEAF = NONE has counted, and RES is the count. -/
theorem res_of_exec_reverseCount {p : PolyIx} {s t : State} (step : exec (.reverseCount p) s = .next t)
    (ok : t.leaf = .none) :
    ∃ x, reverseCount s.rom p (s.arg.extractLsb' 0 17) = some x ∧ t.res.toNat = x.toNat := by
  cases (exec_reverseCount p s).symm.trans step
  cases counted : reverseCount s.rom p (s.arg.extractLsb' 0 17) with
  | none =>
    rw [counted] at ok
    cases ok
  | some x => exact ⟨x, rfl, BitVec.toNat_setWidth_of_le (by decide)⟩

/-- LOCATE in IDLE writes LOC of its sweep and LEAF. -/
theorem exec_locate_idle {s : State} (h : s.session = .idle) (r : Rx) :
    exec (.locate r) s =
      .next { withSweep s r { s.sweep r with loc := (locateSweep s.rom (s.sweep r)).1 } with
        leaf := (locateSweep s.rom (s.sweep r)).2 } := by
  rw [← setSweep_eq_withSweep]
  exact congrArg Host.Outcome.next (diagnostic_idle h _)

theorem locateSweep_noPoly (rom : Rom) {x : Sweep} (h : x.poly = none) :
    locateSweep rom x = (Config.locNone, .notFound) := by
  rw [locateSweep, h]

theorem locateSweep_poly (rom : Rom) {x : Sweep} {i : ActiveIx} (h : x.poly = some i) :
    locateSweep rom x = (locOf (locateSeed rom i x), countLeaf (locateSeed rom i x)) := by
  rw [locateSweep, h]

/-- Settles O40. -/
theorem locateReportsTheSweepsLocation : Obligations.LocateReportsTheSweepsLocation := by
  intro r s idle
  rw [exec_locate_idle idle]
  refine ⟨fun noPoly => ?_, fun i poly => ⟨fun x counted => ?_, fun timeout => ?_⟩⟩
  · rw [locateSweep_noPoly _ noPoly]
  · rw [locateSweep_poly _ poly, locateSeed, counted]
    rfl
  · rw [locateSweep_poly _ poly, locateSeed, timeout]
    rfl

/-! #### What a count means (44_reverse_counter.md R111) -/

/-- Steps forward from REF that lead to one state agree modulo the period. -/
theorem mod_eq_of_fwd_iterate_eq {t : Lfsr} {P m n : Nat} (period : isPeriod t P)
    (h : (fwd t)^[m] 0x00001#17 = (fwd t)^[n] 0x00001#17) : m % P = n % P := by
  obtain ⟨pos, comesBack, notBefore⟩ := period
  have cycle : Function.IsPeriodicPt (fwd t) P 0x00001#17 := comesBack
  have minimal : Function.minimalPeriod (fwd t) 0x00001#17 = P :=
    (cycle.minimalPeriod_le pos).antisymm <| Nat.le_of_not_lt fun shorter =>
      notBefore _ (cycle.minimalPeriod_pos pos) shorter Function.iterate_minimalPeriod
  rw [← cycle.iterate_mod_apply m, ← cycle.iterate_mod_apply n] at h
  have below : ∀ i, i % P < Function.minimalPeriod (fwd t) 0x00001#17 := fun i => by
    rw [minimal]
    exact Nat.mod_lt i pos
  exact (Function.iterate_eq_iterate_iff_of_lt_minimalPeriod (below m) (below n)).1 h

section meaning
variable {rom : Rom} {p : PolyIx} {seed : Lfsr} {x : Word}

theorem fwd_iterate_backN (ht : (rom.tap p).getLsbD 16 = true) (n : Nat) (b : Lfsr) :
    (fwd (rom.tap p))^[n] (backN rom p n b) = b :=
  Function.LeftInverse.iterate (fwd_back ht) n b

theorem backN_fwd_iterate (ht : (rom.tap p).getLsbD 16 = true) (n : Nat) (b : Lfsr) :
    backN rom p n ((fwd (rom.tap p))^[n] b) = b :=
  Function.LeftInverse.iterate (back_fwd ht) n b

/-- Over a consistent table a landmark's own distance is walked too: a count is a backward distance to REF. -/
theorem backN_count (table : consistent rom p) (h : reverseCount rom p seed = some x) :
    backN rom p x.toNat seed = 0x00001#17 := by
  obtain ⟨n, k, -, -, value, -, ⟨ref, rfl⟩ | landmark⟩ := reverseCount_some h
  · rw [value]
    exact ref
  · calc backN rom p x.toNat seed = backN rom p (8192 * k.val) (backN rom p n seed) := by
          rw [value, Nat.add_comm, backN, Function.iterate_add_apply]
          rfl
      _ = 0x00001#17 := by rw [landmark, table k]

/-- Over a consistent table and an invertible mask a count is a forward distance from REF. -/
theorem fwd_iterate_count (ht : (rom.tap p).getLsbD 16 = true) (table : consistent rom p)
    (h : reverseCount rom p seed = some x) : (fwd (rom.tap p))^[x.toNat] 0x00001#17 = seed := by
  rw [← backN_count table h, fwd_iterate_backN ht]

/-- Under a period that exceeds every landmark distance a count is reduced: one of P or more would have met REF a whole
period earlier, before its walk ended. -/
theorem count_lt_period {P : Nat} (ht : (rom.tap p).getLsbD 16 = true) (table : consistent rom p)
    (period : isPeriod (rom.tap p) P) (long : 122880 < P) (h : reverseCount rom p seed = some x) : x.toNat < P := by
  by_contra notLess
  obtain ⟨n, k, -, -, value, before, -⟩ := reverseCount_some h
  obtain ⟨-, comesBack, -⟩ := period
  have onePeriodMore : x.toNat = x.toNat - P + P := by omega
  have seedEarlier : (fwd (rom.tap p))^[x.toNat - P] 0x00001#17 = seed := by
    rw [← fwd_iterate_count ht table h]
    conv_rhs => rw [onePeriodMore, Function.iterate_add_apply, comesBack]
  refine before (x.toNat - P) (by omega) (.inl ?_)
  rw [← seedEarlier, backN_fwd_iterate ht]

end meaning

/-- Settles O39: every count is a forward distance from REF, and such distances to one state agree modulo the period;
a long period makes the count itself the reduced distance. -/
theorem countIsAForwardDistanceFromReference : Obligations.CountIsAForwardDistanceFromReference := by
  intro p s t ht table step ok
  obtain ⟨x, counted, res⟩ := res_of_exec_reverseCount step ok
  have distance := fwd_iterate_count ht table counted
  rw [res]
  refine ⟨backN_count table counted, distance, fun P period => ⟨fun m hm => ?_, fun M u v same arg step' ok' => ?_⟩⟩
  · calc x.toNat % P = m % P := mod_eq_of_fwd_iterate_eq period (distance.trans hm.symm)
      _ ≤ m := Nat.mod_le m P
  · obtain ⟨y, counted', res'⟩ := res_of_exec_reverseCount step' ok'
    rw [same] at counted'
    have further : (fwd (s.rom.tap p))^[y.toNat] 0x00001#17 = (fwd (s.rom.tap p))^[x.toNat + M] 0x00001#17 := by
      rw [fwd_iterate_count ht table counted', arg, Nat.add_comm, Function.iterate_add_apply, distance]
    have congruent := mod_eq_of_fwd_iterate_eq period further
    rw [res']
    exact ⟨congruent, fun long => by
      rw [← congruent, Nat.mod_eq_of_lt (count_lt_period ht table period long counted')]⟩

end Sys2Proof.Machine
end

section
/-! ### The session family: the five session commands, decoding, the transition table and the invariants

What the two long commands leave is said once, outcome by outcome (`advance_failed`, `advance_succeeded`,
`finishLocation_swapped`, `finishLocation_unswapped`); the invariants and the transition table are then read off the
effects of an instruction (`Effect`). -/

namespace Sys2Proof.Machine

open Sys2Proof.Spec

/-! #### START, STOP and RESET (45_session_orchestrator.md R122 to R124) -/

/-- Settles O42. -/
theorem resetCommandRestoresTheResetTable : Obligations.ResetCommandRestoresTheResetTable := fun s =>
  ⟨hardwareReset s, rfl, resetStateHoldsTheResetTable, rfl, rfl, rfl⟩

/-- Settles O43. -/
theorem startClearsTheSession : Obligations.StartClearsTheSession := fun s =>
  ⟨clearSession s, rfl, sweepAtReset_reset, sweepAtReset_reset, pairAtReset_reset, pairAtReset_reset⟩

/-- In IDLE no capture is accepted (20_memory.md R57). -/
theorem not_capAccepted_idle {s : State} (h : s.session = .idle) (r : Rx) : ¬capAccepted s r := by
  rintro ⟨armed, -⟩
  simp [h] at armed

/-- Settles O44. -/
theorem stopDisarmsCapture : Obligations.StopDisarmsCapture := by
  refine fun s => ⟨rfl, fun t h => ?_⟩
  cases h
  refine ⟨statusWord_pairValid _, fun r d => ?_⟩
  exact congrArg Host.Outcome.next (deliver_refused (not_capAccepted_idle rfl r) d)

/-! #### TRY_ADVANCE (45_session_orchestrator.md R118) -/

/-- The guard of R118 in the spec's terms. -/
theorem advances_iff (s : State) :
    (captureArmed s = true ∧ buffersReady s = true) ↔
      (s.session = .running ∨ s.session = .locationReady) ∧ s.sweep0.full = true ∧ s.sweep1.full = true := by
  rw [captureArmed_iff, buffersReady_iff]

/-- A TRY_ADVANCE whose guard holds decodes. -/
theorem exec_tryAdvance_armed {s : State} (h : captureArmed s = true ∧ buffersReady s = true) :
    exec .tryAdvance s = .next (advance s) := by
  rcases execTryAdvance_cases s with ⟨-, -, e⟩ | ⟨hn, -⟩
  · exact e
  · exact absurd h hn

/-- Settles O45. -/
theorem tryAdvanceWaitsForBothBuffers : Obligations.TryAdvanceWaitsForBothBuffers := by
  intro s h
  rw [← advances_iff] at h
  rcases execTryAdvance_cases s with ⟨ha, hr, -⟩ | ⟨-, e⟩
  · exact absurd ⟨ha, hr⟩ h
  · exact e

/-- What the machine reads off a decoded sweep is what the statements read off it (R117). -/
theorem decodeOutcome_eq_outcomeOf (x : Sweep) : decodeOutcome x = outcomeOf x := by
  simp only [decodeOutcome, outcomeOf, Option.isNone_iff_eq_none]

/-- The first failure of the two decoded sweeps, sweep 0 before sweep 1 (R118; 60_exceptions.md R129). -/
def decodeFailure (s : State) : ErrCode × Rx :=
  firstFailure (outcomeOf (decodeSweep s.rom s.sweep0)) (outcomeOf (decodeSweep s.rom s.sweep1))

section firstFailure
variable {e0 e1 : ErrCode}

theorem firstFailure_sweep0 (h : e0 ≠ .none) : firstFailure e0 e1 = (e0, 0) := if_pos h

theorem firstFailure_sweep1 (h0 : e0 = .none) (h1 : e1 ≠ .none) : firstFailure e0 e1 = (e1, 1) := by
  rw [firstFailure, if_neg (not_not.2 h0), if_pos h1]

theorem firstFailure_eq_none_iff : (firstFailure e0 e1).1 = .none ↔ e0 = .none ∧ e1 = .none := by
  rcases firstFailure_cases e0 e1 with ⟨h, e⟩ | ⟨h0, h, e⟩ | ⟨h0, h1, e⟩
  · simp [e, h]
  · simp [e, h]
  · exact iff_of_true (by rw [e]) ⟨h0, h1⟩

/-- Without a failure the sweep named is 0. -/
theorem firstFailure_sweep_of_none (h : (firstFailure e0 e1).1 = .none) : (firstFailure e0 e1).2 = 0 := by
  obtain ⟨rfl, rfl⟩ := firstFailure_eq_none_iff.1 h
  rfl

end firstFailure

/-- A failed decoding: RUNNING, both buffers released, the first failure reported (R118). -/
theorem advance_failed {s : State} (h : (decodeFailure s).1 ≠ .none) :
    advance s =
      { s with
        session := .running
        sweep0 := { decodeSweep s.rom s.sweep0 with full := false }
        sweep1 := { decodeSweep s.rom s.sweep1 with full := false }
        err := (decodeFailure s).1
        errSweep := (decodeFailure s).2 } := by
  have outcomes := advance_cases s
  simp only [decodeOutcome_eq_outcomeOf] at outcomes
  rcases outcomes with ⟨hn, -⟩ | ⟨-, e⟩
  · exact absurd hn h
  · exact e

/-- A decoding without a failure: RAW_DATA_READY, both buffers kept (R118). -/
theorem advance_succeeded {s : State} (h : (decodeFailure s).1 = .none) :
    advance s =
      { s with
        session := .rawDataReady
        sweep0 := decodeSweep s.rom s.sweep0
        sweep1 := decodeSweep s.rom s.sweep1
        err := .none
        errSweep := 0 } := by
  have outcomes := advance_cases s
  simp only [decodeOutcome_eq_outcomeOf] at outcomes
  rcases outcomes with ⟨-, e⟩ | ⟨hn, -⟩
  · rw [e, firstFailure_sweep_of_none h]
  · exact absurd h hn

/-- Settles O46, failure by failure. -/
theorem tryAdvanceDecodesBothSweeps : Obligations.TryAdvanceDecodesBothSweeps := by
  intro s armed full0 full1
  rw [exec_tryAdvance_armed ((advances_iff s).2 ⟨armed, full0, full1⟩)]
  refine ⟨_, _, rfl, rfl, fun fail0 => ?_, fun ok0 fail1 => ?_, fun ok0 ok1 => ?_⟩
  · have first : decodeFailure s = _ := firstFailure_sweep0 fail0
    rw [advance_failed (by rwa [first]), first]
  · have first : decodeFailure s = _ := firstFailure_sweep1 ok0 fail1
    rw [advance_failed (by rwa [first]), first]
  · rw [advance_succeeded (firstFailure_eq_none_iff.2 ⟨ok0, ok1⟩)]

/-! #### decode_sweep (45_session_orchestrator.md R117) -/

/-- A diagnostic command of sweep r, performed in IDLE: IDLE stays, the constants stay, and the sweep is the one the
command makes (30_encoding.md R70). -/
theorem diagnostic_performed {i : Instr} {s : State} {r : Rx} {x : Sweep} {c : LeafCode} (idle : s.session = .idle)
    (h : exec i s = .next (diagnostic s ((s.setSweep r x).raise (.leafOutcome c)))) :
    ∃ t, exec i s = .next t ∧ t.session = .idle ∧ t.rom = s.rom ∧ t.sweep r = x :=
  ⟨_, h.trans (congrArg Host.Outcome.next (diagnostic_idle idle _)), (setSweep_session s r x).trans idle,
    setSweep_rom s r x, sweep_setSweep_same s r x⟩

/-- The state in IDLE with the same registers. -/
theorem sweep_idle (s : State) (r : Rx) : ({ s with session := .idle } : State).sweep r = s.sweep r := rfl

/-- What CLASSIFY, RESOLVE and MATCH leave in IDLE, one after the other. -/
theorem afterDiagnostics_stages (s : State) (r : Rx) :
    afterDiagnostics s r
      (recordMatch (matchChips s.rom (resolveSweep (classifySweep (s.sweep r))).chips)
        (resolveSweep (classifySweep (s.sweep r)))) := by
  obtain ⟨s1, step1, idle1, rom1, sweep1⟩ :=
    diagnostic_performed (i := .classify r) (s := { s with session := .idle }) rfl rfl
  obtain ⟨s2, step2, idle2, rom2, sweep2⟩ := diagnostic_performed (i := .resolve r) idle1 rfl
  obtain ⟨s3, step3, -, -, sweep3⟩ := diagnostic_performed (i := .matchSweep r) idle2 rfl
  refine ⟨s1, s2, s3, step1, step2, step3, ?_⟩
  rw [sweep3, sweep2, sweep1, rom2, rom1, sweep_idle]

/-- Settles O47: the stages are the same functions, and an overflow discards all but the classified registers. -/
theorem decodeSweepIsTheDiagnosticStages : Obligations.DecodeSweepIsTheDiagnosticStages := by
  intro s r
  refine ⟨fun fits => ⟨_, afterDiagnostics_stages s r, ?_⟩, fun overflow => ?_⟩
  · rw [decodeSweep, fits]
    rfl
  · obtain ⟨t, step, -, -, sweep⟩ :=
      diagnostic_performed (i := .classify r) (s := { s with session := .idle }) rfl rfl
    refine ⟨classifySweep (s.sweep r), Sweep.reset, t, step, sweep.symm, sweepAtReset_reset, ?_⟩
    rw [decodeSweep, if_pos overflow]
    rfl

/-- The registers on which the later stages of a decoding rest: the raw bits and what a classification records of them
(41_bit_classifier.md R81). -/
def SameSymbols (x y : Sweep) : Prop :=
  x.raw = y.raw ∧ x.nsym = y.nsym ∧ x.runlen = y.runlen ∧ x.sym = y.sym ∧ x.ovf = y.ovf ∧ x.excl = y.excl

section sameSymbols
variable {x y : Sweep}

/-- A classification reads the raw bits alone (41_bit_classifier.md R75). -/
theorem sameSymbols_classifySweep (h : x.raw = y.raw) : SameSymbols (classifySweep x) (classifySweep y) := by
  have same := recordRuns_same (closedRuns (rawBitList y.raw)) y x
  have classified : recordRuns (closedRuns (rawBitList y.raw)) x = classifySweep x := by rw [classifySweep, h]
  rw [classified] at same
  exact ⟨by rw [classifySweep_raw, classifySweep_raw, h], same⟩

/-- The overflow path reads the classified registers alone. -/
theorem discardDerived_congr (h : SameSymbols x y) :
    { discardDerived x with full := false } = { discardDerived y with full := false } := by
  obtain ⟨raw, nsym, runlen, sym, ovf, excl⟩ := h
  simp only [discardDerived, raw, nsym, runlen, sym, ovf, excl]

/-- Resolving reads the classified registers alone (42_chip_resolver.md R83 to R88). -/
theorem resolveSweep_congr (h : SameSymbols x y) :
    (resolveSweep x).rsym = (resolveSweep y).rsym ∧ (resolveSweep x).chips = (resolveSweep y).chips ∧
      (resolveSweep x).skip0 = (resolveSweep y).skip0 := by
  obtain ⟨-, nsym, -, sym, -, excl⟩ := h
  have classified : classifiedSymbols x = classifiedSymbols y := by
    rw [classifiedSymbols, classifiedSymbols, nsym, sym]
  have bits : resolvedBits x = resolvedBits y := by rw [resolvedBits, resolvedBits, excl, classified]
  have packed : packedBits x = packedBits y := by rw [packedBits, packedBits, classified, bits]
  exact ⟨by rw [resolveSweep, resolveSweep, bits], congrArg packChips packed, congrArg skipFirst classified⟩

/-- Resolving and matching read the classified registers and the tables alone. -/
theorem resolveAndMatch_congr (rom : Rom) (h : SameSymbols x y) :
    { resolveAndMatch rom x with full := false } = { resolveAndMatch rom y with full := false } := by
  obtain ⟨rsym, chips, skip0⟩ := resolveSweep_congr h
  obtain ⟨raw, nsym, runlen, sym, ovf, excl⟩ := h
  simp only [resolveAndMatch, recordMatch, resolveSweep_raw, resolveSweep_nsym, resolveSweep_runlen, resolveSweep_sym,
    resolveSweep_ovf, resolveSweep_excl, rsym, chips, skip0, raw, nsym, runlen, sym, ovf, excl]

/-- decode_sweep reads the raw bits and the tables alone, and leaves FULL. -/
theorem decodeSweep_congr (rom : Rom) (h : x.raw = y.raw) :
    { decodeSweep rom x with full := false } = { decodeSweep rom y with full := false } := by
  have same := sameSymbols_classifySweep h
  have ⟨_, _, _, _, ovf, _⟩ := same
  rw [decodeSweep, decodeSweep, ovf]
  split
  · exact discardDerived_congr same
  · exact resolveAndMatch_congr rom same

end sameSymbols

/-- A TRY_ADVANCE that decodes leaves each sweep decoded, FULL apart. -/
theorem sweep_advance (s : State) (r : Rx) :
    { (advance s).sweep r with full := false } = { decodeSweep s.rom (s.sweep r) with full := false } := by
  rw [advance_frame]
  match r with
  | 0 => rfl
  | 1 => rfl

/-- Settles O48: both commands leave `decodeSweep` of the sweep, which reads the raw bits alone. -/
theorem decodingReadsOnlyTheSweepsOwnBuffer : Obligations.DecodingReadsOnlyTheSweepsOwnBuffer := by
  intro r s s' t t' armed armed' ready ready' rom raw step step'
  cases (exec_tryAdvance_armed ⟨armed, ready⟩).symm.trans step
  cases (exec_tryAdvance_armed ⟨armed', ready'⟩).symm.trans step'
  rw [sweep_advance, sweep_advance, rom]
  exact decodeSweep_congr _ raw

/-! #### PROCESS_LOCATION (45_session_orchestrator.md R119 to R121) -/

/-- Settles O49. -/
theorem processLocationIsANoOpElsewhere : Obligations.ProcessLocationIsANoOpElsewhere := by
  intro s h
  rcases execProcessLocation_cases s with ⟨-, e⟩ | ⟨i0, i1, ready, -⟩ | ⟨ready, -⟩
  · exact e
  · exact absurd ready h
  · exact absurd ready h

theorem exec_processLocation_located {s : State} {i0 i1 : ActiveIx} (ready : s.session = .rawDataReady)
    (h0 : s.sweep0.poly = some i0) (h1 : s.sweep1.poly = some i1) :
    exec .processLocation s =
      .next (finishLocation s (locateSeed s.rom i0 s.sweep0) (locateSeed s.rom i1 s.sweep1)) := by
  simp [exec, execProcessLocation, ready, h0, h1]

theorem locOf_eq_getD (c : Option Word) : locOf c = c.getD 0xFFFFFFFF#32 := by cases c <;> rfl

/-- A sweep timed out, or both were located (R119). -/
theorem timedOut_or_located (c0 c1 : Option Word) :
    (c0 = none ∨ c1 = none) ∨ ∃ l0 l1, c0 = some l0 ∧ c1 = some l1 := by
  cases c0 with
  | none => exact .inl (.inl rfl)
  | some l0 =>
    cases c1 with
    | none => exact .inl (.inr rfl)
    | some l1 => exact .inr ⟨l0, l1, rfl, rfl⟩

section finishLocation
variable (s : State) (c0 c1 : Option Word)

theorem finishLocation_sweep0 :
    (finishLocation s c0 c1).sweep0 = { s.sweep0 with loc := c0.getD 0xFFFFFFFF#32, full := false } := by
  rw [finishLocation_frame, locOf_eq_getD]

theorem finishLocation_sweep1 :
    (finishLocation s c0 c1).sweep1 = { s.sweep1 with loc := c1.getD 0xFFFFFFFF#32, full := false } := by
  rw [finishLocation_frame, locOf_eq_getD c1]

/-- The registers that PROCESS_LOCATION can write. -/
theorem finishLocation_writes :
    finishLocation s c0 c1 =
      { s with
        session := (finishLocation s c0 c1).session
        sweep0 := (finishLocation s c0 c1).sweep0
        sweep1 := (finishLocation s c0 c1).sweep1
        pair0 := (finishLocation s c0 c1).pair0
        pair1 := (finishLocation s c0 c1).pair1
        swapped := (finishLocation s c0 c1).swapped
        err := (finishLocation s c0 c1).err
        errSweep := (finishLocation s c0 c1).errSweep } := by
  conv_lhs => rw [finishLocation_frame]
  rw [finishLocation_sweep0, finishLocation_sweep1, locOf_eq_getD, locOf_eq_getD c1]

end finishLocation

section located
variable (s : State) {l0 l1 : Word}

/-- Sweep 1 has the smaller location: it comes first (R120). -/
theorem finishLocation_swapped (h : l1 < l0) :
    finishLocation s (some l0) (some l1) =
      { s with
        session := .locationReady
        sweep0 := { s.sweep0 with loc := l0, full := false }
        sweep1 := { s.sweep1 with loc := l1, full := false }
        pair0 := ⟨s.sweep1.poly, s.sweep1.offset, l1⟩
        pair1 := ⟨s.sweep0.poly, s.sweep0.offset, l0⟩
        swapped := true
        err := .none
        errSweep := 0 } := by
  rw [finishLocation_located, orderPair, if_pos h]
  rfl

/-- Sweep 0 has the smaller location, or the two are equal (R120). -/
theorem finishLocation_unswapped (h : ¬l1 < l0) :
    finishLocation s (some l0) (some l1) =
      { s with
        session := .locationReady
        sweep0 := { s.sweep0 with loc := l0, full := false }
        sweep1 := { s.sweep1 with loc := l1, full := false }
        pair0 := ⟨s.sweep0.poly, s.sweep0.offset, l0⟩
        pair1 := ⟨s.sweep1.poly, s.sweep1.offset, l1⟩
        swapped := false
        err := .none
        errSweep := 0 } := by
  rw [finishLocation_located, orderPair, if_neg h]
  rfl

end located

/-- Settles O50: a timeout, or two locations in one of the two orders. -/
theorem processLocationLocatesBothSweeps : Obligations.ProcessLocationLocatesBothSweeps := by
  intro s i0 i1 c0 c1 ready poly0 poly1 count0 count1
  have step : exec .processLocation s = .next (finishLocation s c0 c1) := by
    rw [count0, count1]
    exact exec_processLocation_located ready poly0 poly1
  refine ⟨_, step, finishLocation_writes s c0 c1, finishLocation_sweep0 s c0 c1, finishLocation_sweep1 s c0 c1,
    fun timeout => ?_, fun l0 l1 located0 located1 => ?_⟩
  · rw [finishLocation_timeout s timeout]
    refine ⟨rfl, rfl, ?_, rfl, rfl, rfl⟩
    exact ite_eq_left_iff.trans ⟨fun h => by_contra fun hn => absurd (h hn) (by decide), fun h hn => absurd h hn⟩
  · rw [located0, located1, ← poly0, ← poly1, ← BitVec.lt_def, ← BitVec.le_def, ← BitVec.not_lt]
    by_cases smaller : l1 < l0
    · rw [finishLocation_swapped s smaller]
      exact ⟨rfl, rfl, rfl, fun _ => ⟨rfl, rfl, rfl⟩, fun h => absurd smaller h⟩
    · rw [finishLocation_unswapped s smaller]
      exact ⟨rfl, rfl, rfl, fun h => absurd h smaller, fun _ => ⟨rfl, rfl, rfl⟩⟩

/-! #### The transition table (45_session_orchestrator.md R115) -/

theorem advance_session (s : State) : (advance s).session = .rawDataReady ∨ (advance s).session = .running := by
  by_cases h : (decodeFailure s).1 = .none
  · rw [advance_succeeded h]
    exact .inl rfl
  · rw [advance_failed h]
    exact .inr rfl

theorem finishLocation_session (s : State) (c0 c1 : Option Word) :
    (finishLocation s c0 c1).session = .locationReady ∨ (finishLocation s c0 c1).session = .running := by
  rcases timedOut_or_located c0 c1 with timeout | ⟨l0, l1, rfl, rfl⟩
  · rw [finishLocation_timeout s timeout]
    exact .inr rfl
  · rw [finishLocation_located]
    exact .inl rfl

/-- Settles O51: the three commands that set STATE outright, the two that decide it, and the rest, which are no writer
of STATE. -/
theorem sessionStatesFollowTheTransitionTable : Obligations.SessionStatesFollowTheTransitionTable := by
  intro i s t hw h
  have e : Effect s i t := exec_effect hw h
  cases i with
  | start => cases h; rfl
  | stop => cases h; rfl
  | reset => cases h; rfl
  | tryAdvance =>
    dsimp only
    rw [← if_congr (advances_iff s) rfl rfl]
    cases e with
    | advanced ha hr =>
      rw [if_pos ⟨ha, hr⟩]
      exact advance_session s
    | notAdvanced hn => rw [if_neg hn]
    | rejected hd => cases hd
    | computed hl => cases hl
  | processLocation =>
    dsimp only
    cases e with
    | located ready h0 h1 =>
      rw [if_pos ready]
      exact finishLocation_session s _ _
    | notLocated hn => rw [if_neg hn]
    | rejected hd => cases hd
    | computed hl => cases hl
  | _ => exact not_not.1 fun changed => by simpa using session_writers e nofun changed

/-! #### The one stop (45_session_orchestrator.md R119; 70_reset_and_hazards.md R144) -/

/-- Every well-formed instruction but PROCESS_LOCATION answers a next state. -/
theorem exec_answers {i : Instr} (hw : i.wellFormed = true) (hi : i ≠ .processLocation) (s : State) :
    ∃ t, exec i s = .next t := by
  cases i with
  | processLocation => exact absurd rfl hi
  | busWr a v =>
    rcases execBusWr_cases a v s with ⟨rfl, e⟩ | ⟨-, e⟩ | ⟨-, e⟩ | ⟨-, e⟩
    · have noCommand : isCommandWord v = false := by simpa [Instr.wellFormed] using hw
      exact ⟨_, e.trans (executeWord_refused noCommand s)⟩
    · exact ⟨_, e⟩
    · exact ⟨_, e⟩
    · exact ⟨_, e⟩
  | _ => exact ⟨_, rfl⟩

/-- Settles O55: PROCESS_LOCATION is the one instruction that can stop. -/
theorem onlyAnImpossibleStateStops : Obligations.OnlyAnImpossibleStateStops := by
  intro i s hw
  by_cases hi : i = .processLocation
  · subst hi
    have unfolded : exec .processLocation s = execProcessLocation s := rfl
    rcases execProcessLocation_cases s with ⟨elsewhere, e⟩ | ⟨i0, i1, -, poly0, poly1, e⟩ | ⟨ready, noPoly, e⟩
    · rw [unfolded, e]
      exact ⟨nofun, iff_of_false nofun fun ⟨_, ready, _⟩ => elsewhere ready⟩
    · rw [unfolded, e]
      exact ⟨nofun, iff_of_false nofun fun ⟨_, _, noPoly⟩ => by simp [poly0, poly1] at noPoly⟩
    · rw [unfolded, e]
      exact ⟨nofun, iff_of_true ⟨_, rfl⟩ ⟨rfl, ready, noPoly⟩⟩
  · obtain ⟨t, e⟩ := exec_answers hw hi s
    rw [e]
    exact ⟨nofun, iff_of_false nofun fun ⟨h, _⟩ => hi h⟩

/-! #### The session invariants (45_session_orchestrator.md R125) -/

/-- In a state that is neither RAW_DATA_READY nor LOCATION_READY, I4 is all there is to show. -/
theorem sessionInv_of_errSweepNamed {s : State} (notRaw : s.session ≠ .rawDataReady)
    (notLocation : s.session ≠ .locationReady) (named : ErrSweepNamed s) : SessionInv s :=
  ⟨fun h => absurd h notRaw, fun h => absurd h notLocation, named⟩

/-- Settles O56. -/
theorem sessionInvariantsHoldAtReset : Obligations.SessionInvariantsHoldAtReset :=
  sessionInv_of_errSweepNamed nofun nofun fun _ => rfl

/-- Outside RAW_DATA_READY no invariant speaks of the sweeps. -/
theorem sessionInv_setSweep {s : State} (h : SessionInv s) (notRaw : s.session ≠ .rawDataReady) (r : Rx) (x : Sweep) :
    SessionInv (s.setSweep r x) := by
  obtain ⟨-, pair, named⟩ := h
  refine ⟨fun hs => ?_, ?_, ?_⟩
  · rw [setSweep_session] at hs
    exact absurd hs notRaw
  · simpa [PairReady] using pair
  · simpa [ErrSweepNamed] using named

/-- A sweep that decodes without a failure has a polynomial (R117). -/
theorem poly_isSome_of_outcomeOf {x : Sweep} (h : outcomeOf x = .none) : x.poly.isSome = true := by
  unfold outcomeOf at h
  split_ifs at h with ovf noPoly
  exact Option.isSome_iff_ne_none.2 noPoly

/-- Decoding establishes I1, from full buffers, and I4. -/
theorem sessionInv_advance {s : State} (ready : buffersReady s = true) : SessionInv (advance s) := by
  obtain ⟨full0, full1⟩ := (buffersReady_iff s).1 ready
  by_cases h : (decodeFailure s).1 = .none
  · obtain ⟨ok0, ok1⟩ := firstFailure_eq_none_iff.1 h
    rw [advance_succeeded h]
    refine ⟨fun _ => ⟨?_, ?_, poly_isSome_of_outcomeOf ok0, poly_isSome_of_outcomeOf ok1⟩, nofun, fun _ => rfl⟩
    · exact (decodeSweep_full _ _).trans full0
    · exact (decodeSweep_full _ _).trans full1
  · rw [advance_failed h]
    exact sessionInv_of_errSweepNamed nofun nofun fun noError => absurd noError h

/-- A count is never the sentinel LOC_NONE, under every bound (44_reverse_counter.md R110). -/
theorem locateSeed_ne_locNone {rom : Rom} {i : ActiveIx} {x : Sweep} {l : Word} (h : locateSeed rom i x = some l) :
    l ≠ Config.locNone := by
  obtain ⟨bounded, -⟩ := reverseCountIsBounded
  obtain ⟨-, -, notNone⟩ := bounded rom _ _ l h
  exact notNone

/-- Locating establishes I2, from two polynomials and two counts, and I4. -/
theorem sessionInv_finishLocation {s : State} {i0 i1 : ActiveIx} (poly0 : s.sweep0.poly = some i0)
    (poly1 : s.sweep1.poly = some i1) :
    SessionInv (finishLocation s (locateSeed s.rom i0 s.sweep0) (locateSeed s.rom i1 s.sweep1)) := by
  rcases timedOut_or_located (locateSeed s.rom i0 s.sweep0) (locateSeed s.rom i1 s.sweep1) with
    timeout | ⟨l0, l1, located0, located1⟩
  · rw [finishLocation_timeout s timeout]
    exact sessionInv_of_errSweepNamed nofun nofun nofun
  · have known0 : s.sweep0.poly.isSome = true := by rw [poly0]; rfl
    have known1 : s.sweep1.poly.isSome = true := by rw [poly1]; rfl
    have count0 := locateSeed_ne_locNone located0
    have count1 := locateSeed_ne_locNone located1
    rw [located0, located1]
    by_cases smaller : l1 < l0
    · rw [finishLocation_swapped s smaller]
      exact ⟨nofun, fun _ => ⟨BitVec.le_of_lt smaller, known1, known0, count1, count0⟩, fun _ => rfl⟩
    · rw [finishLocation_unswapped s smaller]
      exact ⟨nofun, fun _ => ⟨BitVec.not_lt.1 smaller, known0, known1, count0, count1⟩, fun _ => rfl⟩

theorem notRaw_of_idle {s : State} (h : s.session = .idle) : s.session ≠ .rawDataReady := by
  rw [h]
  exact nofun

/-- Capture is not armed in RAW_DATA_READY, so that no capture disturbs I1 (R116). -/
theorem notRaw_of_captureArmed {s : State} (h : captureArmed s = true) : s.session ≠ .rawDataReady := by
  rcases (captureArmed_iff s).1 h with running | located
  · rw [running]
    exact nofun
  · rw [located]
    exact nofun

/-- Every instruction keeps the session invariants. -/
theorem effect_sessionInv {i : Instr} {s t : State} (e : Effect s i t) (h : SessionInv s) : SessionInv t := by
  have ⟨_, _, named⟩ := h
  cases e with
  | started => exact sessionInv_of_errSweepNamed nofun nofun fun _ => rfl
  | stopped => exact sessionInv_of_errSweepNamed nofun nofun named
  | reset => exact sessionInv_of_errSweepNamed nofun nofun fun _ => rfl
  | advanced ha hr => exact sessionInv_advance hr
  | located ready poly0 poly1 => exact sessionInv_finishLocation poly0 poly1
  | classified idle r => exact sessionInv_setSweep h (notRaw_of_idle idle) r _
  | resolved idle r => exact sessionInv_setSweep h (notRaw_of_idle idle) r _
  | matched idle r => exact sessionInv_setSweep h (notRaw_of_idle idle) r _
  | counted idle r => exact sessionInv_setSweep h (notRaw_of_idle idle) r _
  | captured armed hf d => exact sessionInv_setSweep h (notRaw_of_captureArmed armed) _ _
  | _ => exact h

/-- Settles O57, by what a step can do: the two commands that enter RAW_DATA_READY and LOCATION_READY establish I1 and
I2, and nothing else changes what they speak of there. -/
theorem everyStepKeepsTheSessionInvariants : Obligations.EveryStepKeepsTheSessionInvariants := by
  intro s t hs h
  cases hp : s.pending with
  | nil =>
    cases (step_nil s hp).symm.trans h
    exact hs
  | cons a rest =>
    rw [step_cons s hp] at h
    obtain ⟨i, e⟩ := exec_effect_exists h
    exact effect_sessionInv e hs

end Sys2Proof.Machine
end

section
/-! ### The run family: what a step runs, and that every program runs to its end

One step from a state with the session invariants has a next state that has them too, with one transaction less
(`step_progress`); the statement about whole programs is this step repeated, from reset. -/

namespace Sys2Proof.Machine

/-- Settles O5. -/
theorem stepRunsTheDecodedInstruction : Obligations.StepRunsTheDecodedInstruction := by
  refine ⟨fun s t rest i pending decoded _ => ?_, step_nil⟩
  rw [step_cons s pending, decoded]

/-- Where I1 holds no well-formed instruction stops: the one stop needs RAW_DATA_READY with a sweep that has no
polynomial (45_session_orchestrator.md R119, R125). -/
theorem exec_next_of_rawReadyOwned {i : Instr} {s : State} (hw : i.wellFormed = true) (owned : RawReadyOwned s) :
    ∃ t, exec i s = .next t := by
  obtain ⟨notRefused, stops⟩ := onlyAnImpossibleStateStops i s hw
  cases e : exec i s with
  | next t => exact ⟨t, rfl⟩
  | refused r => exact absurd e (notRefused r)
  | fault f =>
    obtain ⟨-, ready, noPoly⟩ := stops.1 ⟨f, e⟩
    obtain ⟨-, -, poly0, poly1⟩ := owned ready
    rcases noPoly with none0 | none1
    · rw [none0] at poly0
      cases poly0
    · rw [none1] at poly1
      cases poly1

/-- From a state with the session invariants a step answers a next state that has them, with the first pending
transaction, if any, consumed (70_reset_and_hazards.md R144). -/
theorem step_progress {s : State} (h : SessionInv s) :
    ∃ t, step s = .next t ∧ t.pending = s.pending.tail ∧ SessionInv t := by
  cases pending : s.pending with
  | nil => exact ⟨s, step_nil s pending, pending, h⟩
  | cons a rest =>
    have owned : RawReadyOwned { s with pending := rest } := h.1
    obtain ⟨t, e⟩ := exec_next_of_rawReadyOwned (decode_wellFormed a) owned
    have stepped : step s = .next t := (step_cons s pending).trans e
    obtain ⟨-, consumed⟩ := tablesAreConstant _ _ _ e
    exact ⟨t, stepped, consumed, everyStepKeepsTheSessionInvariants s t h stepped⟩

/-- A run goes on from what its first step answers. -/
theorem run_succ_of_step {M : Host.Core} {s t : M.State} (h : M.step s = .next t) (k : Nat) :
    M.run (k + 1) s = M.run k t := by
  rw [Host.Core.run, h]

/-- From a state with the session invariants every run goes on, one transaction a step, and keeps them. -/
theorem run_progress (k : Nat) {s : State} (h : SessionInv s) :
    ∃ t : State, Sys2Proof.core.run k s = .next t ∧ t.pending = s.pending.drop k ∧ SessionInv t := by
  induction k generalizing s with
  | zero => exact ⟨s, rfl, rfl, h⟩
  | succ k ih =>
    obtain ⟨u, stepped, consumed, invariant⟩ := step_progress h
    obtain ⟨t, ran, left, kept⟩ := ih invariant
    have unfolded := run_succ_of_step (M := Sys2Proof.core) stepped k
    exact ⟨t, unfolded.trans ran, by rw [left, consumed, List.drop_tail], kept⟩

/-- Settles O60: the reset state has the session invariants, whatever is pending, and every run from such a state goes
on. -/
theorem everyProgramRunsToItsEnd : Obligations.EveryProgramRunsToItsEnd := by
  intro program k
  have invariant : SessionInv { State.reset with pending := program } := sessionInvariantsHoldAtReset
  obtain ⟨t, ran, left, -⟩ := run_progress k invariant
  exact ⟨t, ran, left⟩

end Sys2Proof.Machine
end
